-- ==== Sys2Proof/Word.lean ====
section
/-! DEFINITION. Word.lean: the widths of SFC8's values (00_scope.md R8, 30_encoding.md R74, R76, R81, R82).
Every value is an unsigned integer of a stated width; there is no signed value in the block. -/

namespace Sys2Proof

/-- A byte is 8 bits everywhere (R50). Counts and indices are bytes as well (R7, R83). -/
abbrev Byte := BitVec 8

/-- The document's Word: "an unsigned 16-bit value" (R6). -/
abbrev Word := BitVec 16

/-- A host command word or a response word (R74, R76). -/
abbrev Word32 := BitVec 32

/-- A stream item: 9 bits, a flag above a byte (R81, R82). -/
abbrev Item := BitVec 9

end Sys2Proof
end

