-- ==== Sys2Proof/Config.lean ====
section
/-! DEFINITION. Config.lean: what a builder of SFC8 fixes (00_scope.md R7). The constants the document fixes (R6)
stand where they are used (Machine/Crc8.lean). -/

namespace Sys2Proof

/-- The build-time parameters. State carries one of these, so a statement about every state is a statement about
every `MAX_RESP` (93_implementation_defined.md U4: "claims either fix it (the reference 32) or quantify over it").
Log entry 3. -/
structure Config where
  /-- `MAX_RESP`, the depth of the RX word buffer; OPEN in the spec, 1..255 (R7). -/
  maxResp : Nat
deriving DecidableEq, Repr

/-- R7: 1 <= `MAX_RESP` <= 255. -/
abbrev Config.wf (c : Config) : Prop := 1 ≤ c.maxResp ∧ c.maxResp ≤ 255

/-- The reference value 32 of R7, "used by 95_test_vectors.md". DESIGN CHOICE, log entry 3. -/
def Config.reference : Config := { maxResp := 32 }

end Sys2Proof
end

