-- ==== Sys2Proof/Syntax.lean ====
section
/-! DEFINITION. Syntax.lean: the fourteen operations of SFC8 (30_encoding.md R78), one constructor per row of
spec/opcode_table.json, in the table's order. -/

namespace Sys2Proof

/-- The operations of R78. Operands are unsigned fields taken as they stand (R75). -/
inductive Instr where
  /-- CRC.GEN, R110: the checksum of the word `w`. -/
  | crcGen (w : Word)
  /-- CRC.CHK, R111: does the byte `c` check the word `w`. -/
  | crcChk (c : Byte) (w : Word)
  /-- TX.START, R124: begin a command frame with `n` arguments and the opcode `op`. -/
  | txStart (n : Byte) (op : Word)
  /-- TX.ARG, R125: the next argument word. -/
  | txArg (w : Word)
  /-- TX.ABORT, R128. -/
  | txAbort
  /-- TX.STAT, R129. -/
  | txStat
  /-- RX.START, R155: begin a response frame of `n` expected words. -/
  | rxStart (n : Byte)
  /-- RX.RESULT, R159. -/
  | rxResult
  /-- RX.RDWORD, R160: read the decoded word of index `i`. -/
  | rxRdword (i : Byte)
  /-- RX.CLEAR, R161. -/
  | rxClear
  /-- RX.STAT, R162. -/
  | rxStat
  /-- TX.BYTE, R127: the transport takes the item on offer; it has no operand from outside. -/
  | txByte
  /-- RX.BYTE, R157: the transport hands over the data byte `b`. -/
  | rxByte (b : Byte)
  /-- RX.END, R158: the end mark; `ignored` is the data field of the item, "ignored, any value" (R82). -/
  | rxEnd (ignored : Byte)
deriving DecidableEq, Repr

/-- The three units, which share no state (R2). -/
inductive Part where
  | crc | tx | rx
deriving DecidableEq, Repr

/-- The unit column of R78. -/
def Instr.part : Instr → Part
  | .crcGen _ => .crc
  | .crcChk _ _ => .crc
  | .txStart _ _ => .tx
  | .txArg _ => .tx
  | .txAbort => .tx
  | .txStat => .tx
  | .rxStart _ => .rx
  | .rxResult => .rx
  | .rxRdword _ => .rx
  | .rxClear => .rx
  | .rxStat => .rx
  | .txByte => .tx
  | .rxByte _ => .rx
  | .rxEnd _ => .rx

/-- The eleven host commands; the other three operations are stream transfers (R78). -/
def Instr.isHost : Instr → Bool
  | .crcGen _ => true
  | .crcChk _ _ => true
  | .txStart _ _ => true
  | .txArg _ => true
  | .txAbort => true
  | .txStat => true
  | .rxStart _ => true
  | .rxResult => true
  | .rxRdword _ => true
  | .rxClear => true
  | .rxStat => true
  | .txByte => false
  | .rxByte _ => false
  | .rxEnd _ => false

/-- What one of the outside agents presents at a port (R51 to R53): a raw command word at the host port, readiness
at the T port (which carries no bits into the block), or a raw item at the R port. -/
inductive Presented where
  | host (c : Word32)
  | tReady
  | rItem (it : Item)
deriving DecidableEq, Repr

end Sys2Proof
end

