-- ==== Sys2Proof/Machine/State.lean ====
section
/-! DEFINITION. Machine/State.lean: the whole state of SFC8 as plain data (10_state.md R20), the reasons a step can
stop, and the state after reset (R43). -/

namespace Sys2Proof.Machine

/-- `tx_state` (R22). The code 7 is unreachable and is not represented (93_implementation_defined.md U7). -/
inductive TxState where
  /-- `T_IDLE`: no frame in progress. -/
  | idle
  /-- `T_OPH`: offering `hi(tx_opcode)`. -/
  | oph
  /-- `T_OPL`: offering `lo(tx_opcode)`. -/
  | opl
  /-- `T_WAIT`: waiting for the host's next argument word. -/
  | wait
  /-- `T_AH`: offering `hi(tx_word)`. -/
  | ah
  /-- `T_AL`: offering `lo(tx_word)`. -/
  | al
  /-- `T_AC`: offering `tx_crc`. -/
  | ac
deriving DecidableEq, Repr

/-- `rx_state` (R28). The code 3 is not represented (U7). -/
inductive RxState where
  /-- `R_IDLE`: no frame in progress; the R port is not ready. -/
  | idle
  /-- `R_ACTIVE`: a frame is being received; the R port is ready. -/
  | active
  /-- `R_DONE`: the frame has ended and its verdict is in `rx_res`. -/
  | done
deriving DecidableEq, Repr

/-- `rx_phase` (R31): how many bytes of the current group are held. The code 3 is not represented (U7). -/
inductive RxPhase where
  | p0 | p1 | p2
deriving DecidableEq, Repr

/-- `rx_res` (R35). The code 3 is not represented (U7). -/
inductive RxRes where
  /-- `RES_OK`. -/
  | ok
  /-- `RES_CHECKSUM`. -/
  | checksum
  /-- `RES_LENGTH`. -/
  | length
deriving DecidableEq, Repr

/-- The status codes of a response (30_encoding.md R77). -/
inductive Status where
  | ok | eIllegal | eState | eRange | eChecksum | eLength
deriving DecidableEq, Repr

/-- `rx_buf` (R36), the block's only indexed storage (R9): the entries that hold a value, indices strictly rising. An
index not listed holds no value. Log entry 5. -/
abbrev Memory := List (Nat × Word)

/-- The canonical form of the buffer: indices strictly rise. (No entry can equal what an unlisted index reads as,
since that is no value.) -/
def Memory.wf : Memory → Bool
  | [] => true
  | [_] => true
  | c :: c' :: rest => decide (c.1 < c'.1) && Memory.wf (c' :: rest)

/-- The registers of the TX unit (R20, R22 to R26). -/
structure TxRegs where
  /-- `tx_state`. -/
  state  : TxState
  /-- `tx_opcode`. -/
  opcode : Word
  /-- `tx_rem`. -/
  rem    : Byte
  /-- `tx_word`. -/
  word   : Word
  /-- `tx_crc`. -/
  crc    : Byte
deriving DecidableEq, Repr

/-- The registers of the RX unit (R20, R28 to R36). -/
structure RxRegs where
  /-- `rx_state`. -/
  state  : RxState
  /-- `rx_expect`. -/
  expect : Byte
  /-- `rx_widx`. -/
  widx   : Byte
  /-- `rx_phase`. -/
  phase  : RxPhase
  /-- `rx_hi`. -/
  hi     : Byte
  /-- `rx_lo`. -/
  lo     : Byte
  /-- `rx_over`. -/
  overflow : Bool
  /-- `rx_cerr`. -/
  cerr   : Bool
  /-- `rx_cidx`. -/
  cidx   : Byte
  /-- `rx_res`. -/
  res    : RxRes
  /-- `rx_buf`. -/
  buf    : Memory
deriving DecidableEq, Repr

/-- Who acts at a step: the three kinds of step of R10, and the reset input of R220. -/
inductive Turn where
  /-- An edge with `rst` = 1 (R220). -/
  | reset
  /-- The host presents its next command word (R51). -/
  | host
  /-- The transport is ready to take a T item (R52). -/
  | t
  /-- The transport offers its next R item (R53). -/
  | r
deriving DecidableEq, Repr

/-- The ports' far side: what the agents have yet to present, whose turn it is, and what the block has given out. No
register of the block (R44); the model's own fields, log entries 1 and 10. -/
structure Ports where
  /-- Command words the host has yet to present, the next one first. -/
  cmds      : List Word32
  /-- Items the transport has yet to hand over; the first one is on offer at the R port until it is taken (R53). -/
  rItems    : List Item
  /-- Which agent acts at each coming step, the next one first. -/
  turns     : List Turn
  /-- Every response word the block has given, oldest first (R51). -/
  responses : List Word32
  /-- Every T item the transport has taken, oldest first (R52). -/
  tItems    : List Item
deriving DecidableEq, Repr

/-- The whole state. The CRC unit has no register (R21). -/
structure State where
  /-- The build-time parameters (R7); no step writes them. -/
  config : Config
  /-- The TX unit's registers. -/
  tx     : TxRegs
  /-- The RX unit's registers. -/
  rx     : RxRegs
  /-- The ports' far side. -/
  ports  : Ports
deriving DecidableEq, Repr

/-- Why a step can stop. Both are impossible in a state that satisfies the invariant of R37 (Safety.lean), so a run
from reset never stops; they stand for states no run reaches. -/
inductive Fault where
  /-- Raised by RX.RDWORD when the entry it may read holds no value: "a fault of the model, not a value"
  (93_implementation_defined.md U1, U2). Safe: the machine stops where the block has no such state. -/
  | bufferNoValue (index : Nat)
  /-- Raised by RX.BYTE and RX.RDWORD for an index at or beyond `MAX_RESP`, an entry that does not exist (R36, R50).
  Safe: excluded by R37(b). -/
  | bufferAbsent (index : Nat)
deriving DecidableEq, Repr

/-- Why a step can be refused. Every operation of R78 has its meaning, so no arm of exec answers with it. -/
inductive Refusal where
  /-- Raised by an arm of exec that has no meaning yet (none). Safe: the machine stops. -/
  | notModelled (mnemonic : String)
deriving DecidableEq, Repr

/-- The TX registers after reset (R43). `tx_opcode`, `tx_word` and `tx_crc` are unspecified there; 0 is a DESIGN
CHOICE, log entry 4. -/
def TxRegs.reset : TxRegs :=
  { state := .idle, opcode := 0, rem := 0, word := 0, crc := 0 }

/-- The RX registers after reset (R43). `rx_hi` and `rx_lo` are unspecified there; 0 is a DESIGN CHOICE, log entry 4.
No buffer entry holds a value. -/
def RxRegs.reset : RxRegs :=
  { state := .idle, expect := 0, widx := 0, phase := .p0, hi := 0, lo := 0, overflow := false, cerr := false, cidx := 0,
    res := .ok, buf := [] }

/-- Nothing waits to be presented, nothing has been given out. -/
def Ports.empty : Ports := { cmds := [], rItems := [], turns := [], responses := [], tItems := [] }

/-- The machine right after reset (R43, R221), with `MAX_RESP` = 32 (log entry 3) and nothing presented yet (log
entry 1). -/
def State.reset : State :=
  { config := Config.reference, tx := TxRegs.reset, rx := RxRegs.reset, ports := Ports.empty }

end Sys2Proof.Machine
end

