-- ==== Sys2Proof/Machine/Operands.lean ====
section
/-! DEFINITION. Machine/Operands.lean: operand assembly (30_encoding.md R83), the codes of the enumerated registers
(R22, R28, R31, R35), the response word and the T item (R76, R77, R81), and what the T and R ports show (R126, R156). -/

namespace Sys2Proof.Machine

/-- `hi(w)` = `w[15:8]` (R8). -/
def hi (w : Word) : Byte := w.extractLsb' 8 8

/-- `lo(w)` = `w[7:0]` (R8). -/
def lo (w : Word) : Byte := w.extractLsb' 0 8

/-- `word(h, l)` = `{h, l}` (R8, R83). -/
def mkWord (h l : Byte) : Word := h ++ l

/-- `zext_16` of a byte (R8). -/
def zext16 (b : Byte) : Word := b.setWidth 16

/-- `zext_16` of a 1-bit value (R8). -/
def flag16 (f : Bool) : Word := (BitVec.ofBool f).setWidth 16

/-- The codes of R22. -/
def TxState.code : TxState → BitVec 3
  | .idle => 0
  | .oph => 1
  | .opl => 2
  | .wait => 3
  | .ah => 4
  | .al => 5
  | .ac => 6

/-- The codes of R28. -/
def RxState.code : RxState → BitVec 2
  | .idle => 0
  | .active => 1
  | .done => 2

/-- The codes of R31: the number of bytes held. -/
def RxPhase.code : RxPhase → BitVec 2
  | .p0 => 0
  | .p1 => 1
  | .p2 => 2

/-- The codes of R35. -/
def RxRes.code : RxRes → BitVec 2
  | .ok => 0
  | .checksum => 1
  | .length => 2

/-- The status codes of R77. -/
def Status.code : Status → BitVec 4
  | .ok => 0x0
  | .eIllegal => 0x1
  | .eState => 0x2
  | .eRange => 0x3
  | .eChecksum => 0x4
  | .eLength => 0x5

/-- The response word `{st, 0x0, x, v}` (R76). -/
def rspWord (st : Status) (x : Byte) (v : Word) : Word32 := st.code ++ (0 : BitVec 4) ++ x ++ v

/-- The item `emit(b, l)` the TX unit offers (R9, R81): `last` above `data`. -/
def tItem (last : Bool) (data : Byte) : Item := BitVec.ofBool last ++ data

/-- What the T port offers, a function of the TX registers alone (R126): `none` is `tx_valid` = 0, for which
`tx_data` and `tx_last` have no value. -/
def txOffer (tx : TxRegs) : Option Item :=
  match tx.state with
  | .idle => none
  | .oph => some (tItem false (hi tx.opcode))
  | .opl => some (tItem (tx.rem == 0) (lo tx.opcode))
  | .wait => none
  | .ah => some (tItem false (hi tx.word))
  | .al => some (tItem false (lo tx.word))
  | .ac => some (tItem (tx.rem == 0) tx.crc)

/-- `tx_valid` (R126). -/
def txValid (tx : TxRegs) : Bool := (txOffer tx).isSome

/-- `rx_ready` is 1 exactly when `rx_state == R_ACTIVE` (R156). -/
def rxReady (rx : RxRegs) : Bool := rx.state == .active

/-- The packed status `{rx_expect, rx_res, rx_cerr, rx_over, rx_phase, rx_state}` of RX.STAT (R162). -/
def rxStatus (rx : RxRegs) : Word :=
  rx.expect ++ rx.res.code ++ BitVec.ofBool rx.cerr ++ BitVec.ofBool rx.overflow ++ rx.phase.code ++ rx.state.code

/-- `zext_16(tx_state)` of TX.STAT (R129). -/
def txStatus (tx : TxRegs) : Word := tx.state.code.setWidth 16

end Sys2Proof.Machine
end

