-- ==== Sys2Proof/Machine/Crc8.lean ====
section
/-! DEFINITION. Machine/Crc8.lean: the CRC-8 function that both other units use (40_crc8.md R100 to R104) and its
equivalent forms (R105, R106). Log entry 12: the spec supplies the loop from general knowledge. -/

namespace Sys2Proof.Machine

/-- `CRC_POLY` (R6, R100): x^8 + x^5 + x^4 + 1 with the x^8 term implicit. -/
def crcPoly : Byte := 0x31

/-- `CRC_INIT` (R6). -/
def crcInit : Byte := 0xFF

/-- One pass of the loop of R101. -/
def crcShift (r : Byte) : Byte :=
  if r.getLsbD 7 then (r <<< 1) ^^^ crcPoly else r <<< 1

/-- `n` passes of the loop of R101. -/
def crcShifts : Nat → Byte → Byte
  | 0, r => r
  | n + 1, r => crcShifts n (crcShift r)

/-- `crc8_update(c, b)` (R101). -/
def crc8Update (c b : Byte) : Byte := crcShifts 8 (c ^^^ b)

/-- The loop of `crc8_bytes` from a register value `c` (R102). -/
def crc8From (c : Byte) : List Byte → Byte
  | [] => c
  | b :: bs => crc8From (crc8Update c b) bs

/-- `crc8_bytes` (R102): "defined for reference only; no operation exposes it" (R5). -/
def crc8Bytes (bs : List Byte) : Byte := crc8From crcInit bs

/-- `crc8_word(w)` (R103): the more significant byte goes in first. -/
def crc8Word (w : Word) : Byte := crc8Update (crc8Update crcInit (hi w)) (lo w)

/-- `crc8_check(w, c)` (R104). -/
def crc8Check (w : Word) (c : Byte) : Bool := crc8Word w == c

/-- The eight XOR equations of R105, most significant bit first, on `r = c ^ b`. -/
def crc8Parallel (c b : Byte) : Byte :=
  let r := fun i => (c ^^^ b).getLsbD i
  BitVec.ofBool (r 5 ^^ r 3 ^^ r 2)
    ++ BitVec.ofBool (r 7 ^^ r 4 ^^ r 2 ^^ r 1)
    ++ BitVec.ofBool (r 7 ^^ r 6 ^^ r 3 ^^ r 1 ^^ r 0)
    ++ BitVec.ofBool (r 7 ^^ r 6 ^^ r 3 ^^ r 0)
    ++ BitVec.ofBool (r 7 ^^ r 6 ^^ r 3)
    ++ BitVec.ofBool (r 6 ^^ r 5 ^^ r 2)
    ++ BitVec.ofBool (r 7 ^^ r 5 ^^ r 4 ^^ r 1)
    ++ BitVec.ofBool (r 6 ^^ r 4 ^^ r 3 ^^ r 0)

/-- `T[k] = crc8_update(0x00, k)` (R106). -/
def crcT (k : Byte) : Byte := crc8Update 0 k

end Sys2Proof.Machine
end

