-- ==== Sys2Proof/Machine/Flags.lean ====
section
/-! DEFINITION. Machine/Flags.lean: the block's status flags are `rx_over`, `rx_cerr` (with `rx_cidx`) and the verdict
`rx_res` (10_state.md R40); these are all the computations of them (R33, R34, R35, 42_rx_decoder.md R157, R158). -/

namespace Sys2Proof.Machine

/-- The test of R157's first line: a byte is beyond `3 * rx_expect`. -/
def rxBeyond (rx : RxRegs) : Bool := rx.overflow || rx.widx == rx.expect

/-- `rx_over <- 1` (R33, R157). -/
def noteOver (rx : RxRegs) : RxRegs := { rx with overflow := true }

/-- `rx_cerr <- 1 ; rx_cidx <- rx_widx` unless `rx_cerr` is already 1 (R34, R157). -/
def noteMismatch (rx : RxRegs) : RxRegs :=
  if rx.cerr then rx else { rx with cerr := true, cidx := rx.widx }

/-- `length_ok` (R158). -/
def lengthOk (rx : RxRegs) : Bool := !rx.overflow && rx.widx == rx.expect && rx.phase == .p0

/-- The verdict of R158: length is judged before checksum. -/
def verdict (rx : RxRegs) : RxRes :=
  if !lengthOk rx then .length else if rx.cerr then .checksum else .ok

/-- Every counter and flag at 0, `rx_res` at `RES_OK`, no buffer entry with a value: what RX.START, RX.CLEAR and reset
have in common (R155, R161, R43). `rx_hi` and `rx_lo` keep their content. -/
def clearFrame (rx : RxRegs) : RxRegs :=
  { rx with expect := 0, widx := 0, phase := .p0, overflow := false, cerr := false, cidx := 0, res := .ok, buf := [] }

end Sys2Proof.Machine
end

