-- ==== Sys2Proof/Machine/Ops.lean ====
section
/-! DEFINITION. Machine/Ops.lean: the shared operations: responding to a host command (00_scope.md R9), raising an
error (60_exceptions.md R190, R197: the response is the whole of the error), giving out a T item, the buffer `rx_buf`
(10_state.md R36), and reset (70_reset_and_hazards.md R220). -/

namespace Sys2Proof.Machine

/-- A step's outcome in this model. -/
abbrev Result := Host.Outcome State Fault Refusal

/-- The state with other TX registers. -/
def State.withTx (s : State) (tx : TxRegs) : State := { s with tx := tx }

/-- The state with other RX registers. -/
def State.withRx (s : State) (rx : RxRegs) : State := { s with rx := rx }

/-- The state after the response word `w` has been given to the host (R51). -/
def State.giveResponse (s : State) (w : Word32) : State :=
  { s with ports := { s.ports with responses := s.ports.responses ++ [w] } }

/-- The state after the transport has taken the T item `it` (R52). -/
def State.giveItem (s : State) (it : Item) : State :=
  { s with ports := { s.ports with tItems := s.ports.tItems ++ [it] } }

/-- `respond(st, x, v)` (R9): ends a host command with the response word of R76. -/
def respond (st : Status) (x : Byte) (v : Word) (s : State) : Result :=
  .next (s.giveResponse (rspWord st x v))

/-- `raise E_<NAME>` (R9): `respond(E_<NAME>, 0, 0)` with no register written. There is no other error entry: nothing
is saved and control goes nowhere (R197), so there is no return from it either (R198). -/
def raise (st : Status) (s : State) : Result := respond st 0 0 s

/-- `raise E_CHECKSUM(i)` (R9). -/
def raiseChecksum (i : Byte) (s : State) : Result := respond .eChecksum i 0 s

/-- The value of entry `i` of a buffer, `none` when it holds no value. -/
def Memory.find (i : Nat) : Memory → Option Word
  | [] => none
  | (j, w) :: rest => if i = j then some w else Memory.find i rest

/-- The buffer with entry `i` holding `w`, in canonical form. -/
def Memory.put (i : Nat) (w : Word) : Memory → Memory
  | [] => [(i, w)]
  | (j, v) :: rest =>
    if i < j then (i, w) :: (j, v) :: rest
    else if i = j then (i, w) :: rest
    else (j, v) :: Memory.put i w rest

/-- `rx_buf[i]` (R9, R36): an entry at or beyond `MAX_RESP` does not exist; one without a value is not read as a number
(93_implementation_defined.md U1, U2). Log entries 5 and 6. -/
def readEntry (cfg : Config) (m : Memory) (i : Byte) : Except Fault Word :=
  if i.toNat < cfg.maxResp then
    match Memory.find i.toNat m with
    | some w => .ok w
    | none => .error (.bufferNoValue i.toNat)
  else .error (.bufferAbsent i.toNat)

/-- `rx_buf[i] <- w` (R9, R36). -/
def writeEntry (cfg : Config) (m : Memory) (i : Byte) (w : Word) : Except Fault Memory :=
  if i.toNat < cfg.maxResp then .ok (Memory.put i.toNat w m) else .error (.bufferAbsent i.toNat)

/-- Reset (R220, R43): every register at its reset value whatever the state was. The ports' far side stays: what was
given out stays given out (R222), and nothing presented on the edge is taken. -/
def resetBlock (s : State) : State := (s.withTx TxRegs.reset).withRx RxRegs.reset

end Sys2Proof.Machine
end

