-- ==== Sys2Proof/Machine/CrcUnit.lean ====
section
/-! DEFINITION. Machine/CrcUnit.lean: the meanings of the CRC unit's operations (40_crc8.md R110, R111). The unit has no
register (10_state.md R21). -/

namespace Sys2Proof.Machine

/-- CRC.GEN (R110): `respond(OK, 0, zext_16(crc8_word(w)))`. -/
def execCrcGen (w : Word) (s : State) : Result := respond .ok 0 (zext16 (crc8Word w)) s

/-- CRC.CHK (R111): `respond(OK, 0, zext_16(crc8_check(w, c)))`; a mismatch is a normal answer. -/
def execCrcChk (c : Byte) (w : Word) (s : State) : Result := respond .ok 0 (flag16 (crc8Check w c)) s

end Sys2Proof.Machine
end

