-- ==== Sys2Proof/Machine/RxUnit.lean ====
section
/-! DEFINITION. Machine/RxUnit.lean: the meanings of the RX unit's operations (42_rx_decoder.md R155 to R162). -/

namespace Sys2Proof.Machine

/-- The RX registers after an accepted RX.START (R155): all but `rx_hi` and `rx_lo` are written. -/
def rxStarted (n : Byte) (rx : RxRegs) : RxRegs := { clearFrame rx with expect := n, state := .active }

/-- RX.START (R155): the state is tested before the range (R196). -/
def execRxStart (n : Byte) (s : State) : Result :=
  if s.rx.state ≠ .idle then raise .eState s
  else if s.config.maxResp < n.toNat then raise .eRange s
  else respond .ok 0 0 (s.withRx (rxStarted n s.rx))

/-- The step from one group to the next: `rx_widx <- rx_widx + 1 ; rx_phase <- 0` (R157). -/
def nextGroup (rx : RxRegs) : RxRegs := { rx with widx := rx.widx + 1, phase := .p0 }

/-- The entry of `rx_buf` that RX.BYTE writes, if it writes one: in phase 2, when the byte is the CRC of the two bytes
held (R157, R36). -/
def rxStore (b : Byte) (rx : RxRegs) : Option (Byte × Word) :=
  if rxBeyond rx then none
  else if rx.phase = .p2 then
    if crc8Check (mkWord rx.hi rx.lo) b then some (rx.widx, mkWord rx.hi rx.lo) else none
  else none

/-- RX.BYTE's pseudocode (R157) on the RX registers. -/
def rxTake (cfg : Config) (b : Byte) (rx : RxRegs) : Except Fault RxRegs :=
  if rxBeyond rx then .ok (noteOver rx)
  else
    match rx.phase with
    | .p0 => .ok { rx with hi := b, phase := .p1 }
    | .p1 => .ok { rx with lo := b, phase := .p2 }
    | .p2 =>
      match rxStore b rx with
      | some (i, w) =>
        match writeEntry cfg rx.buf i w with
        | .ok m => .ok (nextGroup { rx with buf := m })
        | .error f => .error f
      | none => .ok (nextGroup (noteMismatch rx))

/-- RX.BYTE (R157): enabled only in `R_ACTIVE`; at other times the item waits at the port and nothing changes (R154
"no such step", R156; log entry 2). -/
def execRxByte (b : Byte) (s : State) : Result :=
  if rxReady s.rx then
    match rxTake s.config b s.rx with
    | .ok rx => .next (s.withRx rx)
    | .error f => .fault f
  else .next s

/-- RX.END (R158): enabled only in `R_ACTIVE`, as RX.BYTE; `rx_data` of the item is ignored. -/
def execRxEnd (_ignored : Byte) (s : State) : Result :=
  if rxReady s.rx then .next (s.withRx { s.rx with res := verdict s.rx, state := .done }) else .next s

/-- RX.RESULT (R159). -/
def execRxResult (s : State) : Result :=
  if s.rx.state ≠ .done then raise .eState s
  else
    match s.rx.res with
    | .ok => respond .ok 0 (zext16 s.rx.expect) s
    | .checksum => raiseChecksum s.rx.cidx s
    | .length => raise .eLength s

/-- RX.RDWORD (R160): the state is tested before the range (R196). -/
def execRxRdword (i : Byte) (s : State) : Result :=
  if s.rx.state ≠ .done ∨ s.rx.res ≠ .ok then raise .eState s
  else if s.rx.expect ≤ i then raise .eRange s
  else
    match readEntry s.config s.rx.buf i with
    | .ok w => respond .ok 0 w s
    | .error f => .fault f

/-- RX.CLEAR (R161), accepted in every state. -/
def execRxClear (s : State) : Result :=
  respond .ok 0 0 (s.withRx { clearFrame s.rx with state := .idle })

/-- RX.STAT (R162), accepted in every state. -/
def execRxStat (s : State) : Result := respond .ok s.rx.widx (rxStatus s.rx) s

end Sys2Proof.Machine
end

