-- ==== Sys2Proof/Machine/TxUnit.lean ====
section
/-! DEFINITION. Machine/TxUnit.lean: the meanings of the TX unit's operations (41_tx_encoder.md R124 to R129). -/

namespace Sys2Proof.Machine

/-- The TX registers after an accepted TX.START (R124). -/
def txStarted (n : Byte) (op : Word) (tx : TxRegs) : TxRegs := { tx with opcode := op, rem := n, state := .oph }

/-- TX.START (R124). -/
def execTxStart (n : Byte) (op : Word) (s : State) : Result :=
  if s.tx.state = .idle then respond .ok 0 0 (s.withTx (txStarted n op s.tx)) else raise .eState s

/-- The TX registers after an accepted TX.ARG (R125). -/
def txArgTaken (w : Word) (tx : TxRegs) : TxRegs :=
  { tx with word := w, crc := crc8Word w, rem := tx.rem - 1, state := .ah }

/-- TX.ARG (R125). -/
def execTxArg (w : Word) (s : State) : Result :=
  if s.tx.state = .wait then respond .ok 0 0 (s.withTx (txArgTaken w s.tx)) else raise .eState s

/-- TX.ABORT (R128), accepted in every state. -/
def execTxAbort (s : State) : Result :=
  respond .ok 0 0 (s.withTx { s.tx with state := .idle, rem := 0 })

/-- TX.STAT (R129), accepted in every state. -/
def execTxStat (s : State) : Result := respond .ok s.tx.rem (txStatus s.tx) s

/-- The state after the last byte of a part: idle when no argument remains, else waiting for the next (R127). -/
def txAfterPart (tx : TxRegs) : TxState := if tx.rem = 0 then .idle else .wait

/-- `tx_state` after a T transfer (R127). In `T_IDLE` and `T_WAIT` there is no T transfer and the value is not used. -/
def txNextState (tx : TxRegs) : TxState :=
  match tx.state with
  | .idle => .idle
  | .oph => .opl
  | .opl => txAfterPart tx
  | .wait => .wait
  | .ah => .al
  | .al => .ac
  | .ac => txAfterPart tx

/-- TX.BYTE (R127): the transport takes the item on offer. "Enabled exactly when `tx_valid` is 1"; when nothing is
offered the transport waits and nothing changes (R123 "no such step", R132; log entry 2). -/
def execTxByte (s : State) : Result :=
  match txOffer s.tx with
  | none => .next s
  | some it => .next ((s.withTx { s.tx with state := txNextState s.tx }).giveItem it)

end Sys2Proof.Machine
end

