-- ==== Sys2Proof/Machine/Dispatch.lean ====
section
/-! DEFINITION. Machine/Dispatch.lean: from an operation to its meaning, one arm per constructor of Instr. -/

namespace Sys2Proof.Machine

def exec (i : Instr) (s : State) : Host.Outcome State Fault Refusal :=
  match i with
  | .crcGen w => Sys2Proof.Machine.execCrcGen w s
  | .crcChk c w => Sys2Proof.Machine.execCrcChk c w s
  | .txStart n op => Sys2Proof.Machine.execTxStart n op s
  | .txArg w => Sys2Proof.Machine.execTxArg w s
  | .txAbort => Sys2Proof.Machine.execTxAbort s
  | .txStat => Sys2Proof.Machine.execTxStat s
  | .rxStart n => Sys2Proof.Machine.execRxStart n s
  | .rxResult => Sys2Proof.Machine.execRxResult s
  | .rxRdword k => Sys2Proof.Machine.execRxRdword k s
  | .rxClear => Sys2Proof.Machine.execRxClear s
  | .rxStat => Sys2Proof.Machine.execRxStat s
  | .txByte => Sys2Proof.Machine.execTxByte s
  | .rxByte b => Sys2Proof.Machine.execRxByte b s
  | .rxEnd d => Sys2Proof.Machine.execRxEnd d s

end Sys2Proof.Machine
end

