-- ==== Sys2Proof/Decode.lean ====
section
/-! DEFINITION. Decode.lean: from what is presented at a port to an operation, total and rejecting by name
(30_encoding.md R79, R80, R82), and the encoder, its inverse (R79). -/

namespace Sys2Proof

/-- Why a command word decodes to no operation (R80). Each of these is answered `E_ILLEGAL`. -/
inductive DecodeError where
  /-- `rsv` is not 0. -/
  | reservedField (rsv : BitVec 4)
  /-- `op` is 0x0, 0x3, 0xD, 0xE or 0xF. -/
  | reservedOp (op : BitVec 4)
  /-- A field its format says must be 0 is not 0. -/
  | operandNotZero (op : BitVec 4)
deriving DecidableEq, Repr

/-- The field `op` (R74). -/
def cmdOp (c : Word32) : BitVec 4 := c.extractLsb' 28 4

/-- The field `rsv` (R74). -/
def cmdRsv (c : Word32) : BitVec 4 := c.extractLsb' 24 4

/-- The field `a` (R74). -/
def cmdA (c : Word32) : Byte := c.extractLsb' 16 8

/-- The field `d` (R74). -/
def cmdD (c : Word32) : Word := c.extractLsb' 0 16

/-- Accept `i` when the must-be-zero test of its format holds (R75, R80). -/
def acceptWhen (zero : Bool) (op : BitVec 4) (i : Instr) : Except DecodeError Instr :=
  if zero then .ok i else .error (.operandNotZero op)

/-- `decode(c)` of R79, for a command word. -/
def decodeCmd (c : Word32) : Except DecodeError Instr :=
  if cmdRsv c ≠ 0 then .error (.reservedField (cmdRsv c))
  else
    match (cmdOp c).toNat with
    | 0x1 => acceptWhen (cmdA c == 0) (cmdOp c) (.crcGen (cmdD c))
    | 0x2 => .ok (.crcChk (cmdA c) (cmdD c))
    | 0x4 => .ok (.txStart (cmdA c) (cmdD c))
    | 0x5 => acceptWhen (cmdA c == 0) (cmdOp c) (.txArg (cmdD c))
    | 0x6 => acceptWhen (cmdA c == 0 && cmdD c == 0) (cmdOp c) .txAbort
    | 0x7 => acceptWhen (cmdA c == 0 && cmdD c == 0) (cmdOp c) .txStat
    | 0x8 => acceptWhen (cmdD c == 0) (cmdOp c) (.rxStart (cmdA c))
    | 0x9 => acceptWhen (cmdA c == 0 && cmdD c == 0) (cmdOp c) .rxResult
    | 0xA => acceptWhen (cmdD c == 0) (cmdOp c) (.rxRdword (cmdA c))
    | 0xB => acceptWhen (cmdA c == 0 && cmdD c == 0) (cmdOp c) .rxClear
    | 0xC => acceptWhen (cmdA c == 0 && cmdD c == 0) (cmdOp c) .rxStat
    | _ => .error (.reservedOp (cmdOp c))

/-- The R item of R82: bit 8 is `end`, bits 7:0 are `data`. -/
def decodeRItem (it : Item) : Instr :=
  if it.getLsbD 8 then .rxEnd (it.extractLsb' 0 8) else .rxByte (it.extractLsb' 0 8)

/-- The operation that what is presented at a port performs (R78: "selected by the port"). At the T port there is
nothing to decode: every T item is a TX.BYTE (R81). -/
def decode : Presented → Except DecodeError Instr
  | .host c => decodeCmd c
  | .tReady => .ok .txByte
  | .rItem it => .ok (decodeRItem it)

/-- `encode(op, a, d) = {op, 0x0, a, d}` (R79). -/
def cmdWord (op : BitVec 4) (a : Byte) (d : Word) : Word32 := op ++ (0 : BitVec 4) ++ a ++ d

/-- The R item `{end, data}` (R82). -/
def rItemOf (endMark : Bool) (data : Byte) : Item := BitVec.ofBool endMark ++ data

/-- What an agent presents to have an operation performed: the command word with the `op` and the format of R78 (unused
fields 0), the readiness of the T port, or the R item of R82. -/
def encode : Instr → Presented
  | .crcGen w => .host (cmdWord 0x1 0 w)
  | .crcChk c w => .host (cmdWord 0x2 c w)
  | .txStart n op => .host (cmdWord 0x4 n op)
  | .txArg w => .host (cmdWord 0x5 0 w)
  | .txAbort => .host (cmdWord 0x6 0 0)
  | .txStat => .host (cmdWord 0x7 0 0)
  | .rxStart n => .host (cmdWord 0x8 n 0)
  | .rxResult => .host (cmdWord 0x9 0 0)
  | .rxRdword i => .host (cmdWord 0xA i 0)
  | .rxClear => .host (cmdWord 0xB 0 0)
  | .rxStat => .host (cmdWord 0xC 0 0)
  | .txByte => .tReady
  | .rxByte b => .rItem (rItemOf false b)
  | .rxEnd d => .rItem (rItemOf true d)

/-- The host's question of a table row: the operation the block's decoder reads from a word of `nbits` bits. 32 bits
are a command word. The 9-bit rows (given as 9 or as two whole bytes) are R items, the only 9-bit words the block
decodes: a T item is produced by the block and "there is nothing to decode" (R81). Log entry 8. -/
def decodeTableWord (nbits w : Nat) : Option Instr :=
  if nbits = 32 then
    if w < 2 ^ 32 then (decode (.host (BitVec.ofNat 32 w))).toOption else none
  else if nbits = 9 ∨ nbits = 16 then
    if w < 2 ^ 9 then (decode (.rItem (BitVec.ofNat 9 w))).toOption else none
  else none

end Sys2Proof
end

