-- ==== Sys2Proof/Machine/Fetch.lean ====
section
/-! DEFINITION. Machine/Fetch.lean: how the next step is chosen. SFC8 fetches no instructions (20_memory.md R63); the
counterpart is an agent presenting something at its port (00_scope.md R10). `ports.turns` says which agent acts. -/

namespace Sys2Proof.Machine

/-- What one step does. -/
inductive Action where
  /-- Nothing: no turn is left, or the agent whose turn it is has nothing to present, or its port is not ready. -/
  | idle
  /-- An edge with `rst` = 1 (R220). -/
  | reset
  /-- A command word that decodes to no operation, and why (R80). -/
  | illegal (e : DecodeError)
  /-- An operation. -/
  | run (i : Instr)
deriving DecidableEq, Repr

/-- The state after the turn at the head has been used up. -/
def State.afterTurn (s : State) : State := { s with ports := { s.ports with turns := s.ports.turns.tail } }

/-- The state after the host's next command word has been taken: it "acts when it is presented and is not kept"
(R63). -/
def State.takeCmd (s : State) : State := { s with ports := { s.ports with cmds := s.ports.cmds.tail } }

/-- The state after the R item on offer has been taken (R53). -/
def State.takeRItem (s : State) : State := { s with ports := { s.ports with rItems := s.ports.rItems.tail } }

/-- The operation a command word performs, or why it performs none. -/
def Action.ofCmd (c : Word32) : Action :=
  match decode (.host c) with
  | .ok i => .run i
  | .error e => .illegal e

/-- What the next step does, and the state it does it to. An R item is taken only when `rx_ready` is 1 and waits at the
port otherwise (R53, R156, R227); a T transfer happens only when `tx_valid` is 1 (R52). -/
def fetch (s : State) : Action × State :=
  match s.ports.turns with
  | [] => (.idle, s)
  | .reset :: _ => (.reset, s.afterTurn)
  | .host :: _ =>
    match s.ports.cmds with
    | [] => (.idle, s.afterTurn)
    | c :: _ => (Action.ofCmd c, s.afterTurn.takeCmd)
  | .t :: _ => if txValid s.tx then (.run .txByte, s.afterTurn) else (.idle, s.afterTurn)
  | .r :: _ =>
    match s.ports.rItems with
    | [] => (.idle, s.afterTurn)
    | it :: _ => if rxReady s.rx then (.run (decodeRItem it), s.afterTurn.takeRItem) else (.idle, s.afterTurn)

/-- The input signals on one rising edge of `clk` (R51 to R53, R220). -/
structure Edge where
  /-- `rst`. -/
  rst      : Bool
  /-- `rx_valid`. -/
  rxValid  : Bool
  /-- `tx_ready`. -/
  txReady  : Bool
  /-- `cmd_valid`. -/
  cmdValid : Bool
deriving DecidableEq, Repr

/-- What falls on one clock edge, in the order R transfer, T transfer, host command (R65); on an edge with `rst` = 1
only the reset (R220). -/
def edgeTurns (e : Edge) : List Turn :=
  if e.rst then [.reset]
  else (if e.rxValid then [.r] else []) ++ (if e.txReady then [.t] else []) ++ (if e.cmdValid then [.host] else [])

end Sys2Proof.Machine
end

