-- ==== Sys2Proof/Machine/Step.lean ====
section
/-! DEFINITION. Machine/Step.lean: one step of the block (00_scope.md R10), total: "every command answered, the port
never stalls" (92_eei_decisions.md D3). -/

namespace Sys2Proof.Machine

/-- Carry out an action. -/
def perform (a : Action) (s : State) : Host.Outcome State Fault Refusal :=
  match a with
  | .idle => .next s
  | .reset => .next (resetBlock s)
  | .illegal _ => raise .eIllegal s
  | .run i => exec i s

/-- One step: choose by `fetch`, then carry it out. -/
def step (s : State) : Host.Outcome State Fault Refusal := perform (fetch s).1 (fetch s).2

/-- `s` with the command word or the R item `w` as the very next thing an agent presents, and that agent's turn next.
A word of 32 bits goes to the host port. A 9-bit word is an R item (log entry 8); the R port takes one only while
`rx_state` is `R_ACTIVE` (R156), so `rx_state` is set to that: the fetch needs it (log entry 9). -/
def State.withFetchWord (s : State) (nbits w : Nat) : State :=
  if nbits = 32 then
    { s with ports := { s.ports with cmds := BitVec.ofNat 32 w :: s.ports.cmds, turns := .host :: s.ports.turns } }
  else
    { s with
      rx := { s.rx with state := .active }
      ports := { s.ports with rItems := BitVec.ofNat 9 w :: s.ports.rItems, turns := .r :: s.ports.turns } }

end Sys2Proof.Machine
end

