-- ==== Sys2Proof/Machine/Reference.lean ====
section
/-! DEFINITION. Machine/Reference.lean: the document's functions as the spec renders them, which the block's steps must
add up to: `encode_words`, `encode_command` (41_tx_encoder.md R120, R121) and `decode_response` (42_rx_decoder.md R150). -/

namespace Sys2Proof.Machine

/-- The group of a protected word (30_encoding.md R70). -/
def group (w : Word) : List Byte := [hi w, lo w, crc8Word w]

/-- `encode_words` (R120): the groups of the words in order. -/
def encodeWords : List Word → List Byte
  | [] => []
  | w :: ws => group w ++ encodeWords ws

/-- `encode_command(op, args)` (R121): the opcode has no CRC byte (90_conflicts.md C1). -/
def encodeCommand (op : Word) (args : List Word) : List Byte := [hi op, lo op] ++ encodeWords args

/-- The document's `FrameError` (R150, 00_scope.md glossary). -/
inductive FrameError where
  /-- `Checksum(word_index)`, counted from 0 (92_eei_decisions.md D10). -/
  | checksum (index : Nat)
  /-- `Length`. -/
  | length
deriving DecidableEq, Repr

/-- The loop of `decode_response` from group `i` on. The last case cannot arise once the length has been tested. -/
def decodeGroups : Nat → List Byte → Except FrameError (List Word)
  | _, [] => .ok []
  | i, h :: l :: c :: rest =>
    if crc8Word (mkWord h l) ≠ c then .error (.checksum i)
    else
      match decodeGroups (i + 1) rest with
      | .ok ws => .ok (mkWord h l :: ws)
      | .error e => .error e
  | _, _ => .error .length

/-- `decode_response(bs, n)` (R150): the length test comes before any CRC test (D11). -/
def decodeResponse (bs : List Byte) (n : Nat) : Except FrameError (List Word) :=
  if bs.length ≠ 3 * n then .error .length else decodeGroups 0 bs

/-- The T items of a frame's bytes: `last` is 1 on the final byte only (R81, R130). -/
def frameItems : List Byte → List Item
  | [] => []
  | [b] => [tItem true b]
  | b :: c :: rest => tItem false b :: frameItems (c :: rest)

end Sys2Proof.Machine
end

