-- ==== Sys2Proof/Machine/Macros.lean ====
section
/-! DEFINITION. Machine/Macros.lean: executions as sequences of operations, and the macro operations of
30_encoding.md R85. -/

namespace Sys2Proof.Machine

/-- Operations performed one after another (R10), stopping at a fault or a refusal. -/
def runInstrs : List Instr → State → Result
  | [], s => .next s
  | i :: is, s =>
    match exec i s with
    | .next t => runInstrs is t
    | .fault f => .fault f
    | .refused r => .refused r

/-- One argument of ENCODE: TX.ARG and three T transfers (R85). -/
def argSteps (a : Word) : List Instr := [.txArg a, .txByte, .txByte, .txByte]

/-- `ENCODE op, [a_0 .. a_{n-1}]` (R85). -/
def encodeMacro (op : Word) (args : List Word) : List Instr :=
  [.txStart (BitVec.ofNat 8 args.length) op, .txByte, .txByte] ++ args.flatMap argSteps

/-- The first part of DECODE (R85): RX.START, the data bytes, the end mark. -/
def feedSteps (n : Byte) (bs : List Byte) : List Instr := .rxStart n :: (bs.map .rxByte ++ [.rxEnd 0])

/-- `DECODE n, [b_0 .. b_{k-1}]` (R85). `ok` says whether RX.RESULT answered `OK`, which is when the words are read. -/
def decodeMacro (n : Byte) (bs : List Byte) (ok : Bool) : List Instr :=
  feedSteps n bs ++ [.rxResult]
    ++ (if ok then (List.range n.toNat).map (fun i => .rxRdword (BitVec.ofNat 8 i)) else []) ++ [.rxClear]

/-- `CHECKWORD w, c` (R85). -/
def checkwordMacro (w : Word) (c : Byte) : List Instr := [.crcChk c w]

/-- `SEAL w` (R85). -/
def sealMacro (w : Word) : List Instr := [.crcGen w]

/-- The turn of the agent that presents something (R10). -/
def turnOf : Presented → Turn
  | .host _ => .host
  | .tReady => .t
  | .rItem _ => .r

/-- The state with a sequence of operations waiting to be presented, each in the encoding of R79 and R82, in front of
whatever waits already. -/
def State.presenting (s : State) (is : List Instr) : State :=
  { s with
    ports :=
      { s.ports with
        cmds := is.filterMap (fun i => match encode i with | .host c => some c | .tReady => none | .rItem _ => none)
          ++ s.ports.cmds
        rItems := is.filterMap (fun i => match encode i with | .host _ => none | .tReady => none | .rItem it => some it)
          ++ s.ports.rItems
        turns := is.map (fun i => turnOf (encode i)) ++ s.ports.turns } }

end Sys2Proof.Machine
end

