-- ==== Sys2Proof/Safety.lean ====
section
/-! DEFINITION. Safety.lean: the invariants of the block (10_state.md R27, R37), quiescence (70_reset_and_hazards.md
R235), and what a safe run is: one that never stops. -/

namespace Sys2Proof.Machine

/-- R27: (c) and (d), and the idle value of `tx_rem` (R27(f), 41_tx_encoder.md R130(d), R131). R27(a) holds by the type
of `tx_state`; R27(e) is about the past and is part of the statement of R130. -/
abbrev TxInv (tx : TxRegs) : Prop :=
  (tx.state = .idle → tx.rem = 0) ∧
  (tx.state = .wait → 1 ≤ tx.rem) ∧
  (tx.state = .ah ∨ tx.state = .al ∨ tx.state = .ac → tx.crc = crc8Word tx.word)

/-- R37(h). -/
abbrev RxIdleClear (rx : RxRegs) : Prop :=
  rx.expect = 0 ∧ rx.widx = 0 ∧ rx.phase = .p0 ∧ rx.overflow = false ∧ rx.cerr = false ∧ rx.cidx = 0 ∧ rx.res = .ok ∧
    rx.buf = []

/-- What R37(g) says of the buffer at one moment: canonical form, no entry at or beyond `rx_widx`, and every entry below
it holds a value while no group has failed. Which word it holds is about the past and is part of the statement of
42_rx_decoder.md R163. -/
abbrev RxBufInv (rx : RxRegs) : Prop :=
  Memory.wf rx.buf = true ∧
  (∀ e ∈ rx.buf, e.1 < rx.widx.toNat) ∧
  (rx.cerr = false → ∀ i < rx.widx.toNat, (Memory.find i rx.buf).isSome = true)

/-- R37 (b), (c), (d), (f), (g), (h), and what `rx_res` holds in each state (R35). R37(a) holds by the types; R37(e) is
about the past and is part of the statement of R163. -/
abbrev RxInv (cfg : Config) (rx : RxRegs) : Prop :=
  (rx.widx ≤ rx.expect ∧ rx.expect.toNat ≤ cfg.maxResp) ∧
  (rx.widx = rx.expect → rx.phase = .p0) ∧
  (rx.overflow = true → rx.widx = rx.expect) ∧
  (rx.cerr = true → rx.cidx < rx.widx) ∧
  (rx.cerr = false → rx.cidx = 0) ∧
  (rx.state = .idle → RxIdleClear rx) ∧
  (rx.state = .active → rx.res = .ok) ∧
  (rx.state = .done → rx.res = verdict rx) ∧
  RxBufInv rx

/-- The invariant of the whole block; it holds after reset and every step keeps it (R27, R37). -/
abbrev State.Inv (s : State) : Prop := s.config.wf ∧ TxInv s.tx ∧ RxInv s.config s.rx

/-- R235: both units idle. -/
abbrev State.Quiescent (s : State) : Prop := s.tx.state = .idle ∧ s.rx.state = .idle

/-- A safe start: however many steps are taken, the machine is still going. -/
def State.Safe (s : State) : Prop := ∀ k : Nat, ∃ t : State, Host.Core.run Sys2Proof.core k s = .next t

end Sys2Proof.Machine
end

