-- ==== Sys2Proof/WellFormed.lean ====
section
/-! DEFINITION. WellFormed.lean: which command words are well formed, said by fields and formats
(30_encoding.md R74, R75, R80). Operands of Instr are bit vectors of the spec's widths, so every Instr is well
formed by its type; what can be ill formed is a raw command word. Decode.lean is written from R79 instead, and that
the two agree is a statement. -/

namespace Sys2Proof

/-- The fields of a command word (R74). -/
structure CmdFields where
  op  : BitVec 4
  rsv : BitVec 4
  a   : Byte
  d   : Word
deriving DecidableEq, Repr

/-- R74: `op` 31:28, `rsv` 27:24, `a` 23:16, `d` 15:0. -/
def CmdFields.ofWord (c : Word32) : CmdFields :=
  { op := c.extractLsb' 28 4, rsv := c.extractLsb' 24 4, a := c.extractLsb' 16 8, d := c.extractLsb' 0 16 }

/-- The four operand formats of R75. -/
inductive Format where
  | n | w | aw | a
deriving DecidableEq, Repr

/-- R75: the formats that use the field `a`. -/
def Format.usesA : Format → Bool
  | .n => false
  | .w => false
  | .aw => true
  | .a => true

/-- R75: the formats that use the field `d`. -/
def Format.usesD : Format → Bool
  | .n => false
  | .w => true
  | .aw => true
  | .a => false

/-- The format column of R78 by operation code; `none` for the five reserved codes of R80. -/
def Format.ofOp (op : BitVec 4) : Option Format :=
  match op.toNat with
  | 0x1 => some .w
  | 0x2 => some .aw
  | 0x4 => some .aw
  | 0x5 => some .w
  | 0x6 => some .n
  | 0x7 => some .n
  | 0x8 => some .a
  | 0x9 => some .n
  | 0xA => some .a
  | 0xB => some .n
  | 0xC => some .n
  | _ => none

/-- R80: a command word is legal when its `op` is assigned, its `rsv` is 0, and every field its format does not use
is 0. -/
def CmdFields.wellFormed (f : CmdFields) : Bool :=
  match Format.ofOp f.op with
  | none => false
  | some fmt => f.rsv == 0 && (fmt.usesA || f.a == 0) && (fmt.usesD || f.d == 0)

end Sys2Proof
end

