-- ==== Sys2Proof/Certificates/Slice0/Obligations.lean ====
section
/-! DEFINITION. Certificates/Slice0/Obligations.lean: the statements about SFC8, each from the rules of spec/ named in
its docstring, and the few words they are stated in. -/

namespace Sys2Proof.Claims

open Sys2Proof.Machine

/-- The field `st` of a response word (R76). -/
def rspSt (r : Word32) : BitVec 4 := r.extractLsb' 28 4

/-- The field `x` of a response word (R76). -/
def rspX (r : Word32) : Byte := r.extractLsb' 16 8

/-- The field `v` of a response word (R76). -/
def rspV (r : Word32) : Word := r.extractLsb' 0 16

/-- The response word that is only a status code, as R191 gives its number: `{st, 0, 0, 0}`. -/
def onlyStatus (st : BitVec 4) : Word32 := st ++ (0 : BitVec 28)

/-- The table T of 95_test_vectors.md V4, row by row. -/
def crcTable : List Byte :=
  [0x00, 0x31, 0x62, 0x53, 0xC4, 0xF5, 0xA6, 0x97, 0xB9, 0x88, 0xDB, 0xEA, 0x7D, 0x4C, 0x1F, 0x2E]
    ++ [0x43, 0x72, 0x21, 0x10, 0x87, 0xB6, 0xE5, 0xD4, 0xFA, 0xCB, 0x98, 0xA9, 0x3E, 0x0F, 0x5C, 0x6D]
    ++ [0x86, 0xB7, 0xE4, 0xD5, 0x42, 0x73, 0x20, 0x11, 0x3F, 0x0E, 0x5D, 0x6C, 0xFB, 0xCA, 0x99, 0xA8]
    ++ [0xC5, 0xF4, 0xA7, 0x96, 0x01, 0x30, 0x63, 0x52, 0x7C, 0x4D, 0x1E, 0x2F, 0xB8, 0x89, 0xDA, 0xEB]
    ++ [0x3D, 0x0C, 0x5F, 0x6E, 0xF9, 0xC8, 0x9B, 0xAA, 0x84, 0xB5, 0xE6, 0xD7, 0x40, 0x71, 0x22, 0x13]
    ++ [0x7E, 0x4F, 0x1C, 0x2D, 0xBA, 0x8B, 0xD8, 0xE9, 0xC7, 0xF6, 0xA5, 0x94, 0x03, 0x32, 0x61, 0x50]
    ++ [0xBB, 0x8A, 0xD9, 0xE8, 0x7F, 0x4E, 0x1D, 0x2C, 0x02, 0x33, 0x60, 0x51, 0xC6, 0xF7, 0xA4, 0x95]
    ++ [0xF8, 0xC9, 0x9A, 0xAB, 0x3C, 0x0D, 0x5E, 0x6F, 0x41, 0x70, 0x23, 0x12, 0x85, 0xB4, 0xE7, 0xD6]
    ++ [0x7A, 0x4B, 0x18, 0x29, 0xBE, 0x8F, 0xDC, 0xED, 0xC3, 0xF2, 0xA1, 0x90, 0x07, 0x36, 0x65, 0x54]
    ++ [0x39, 0x08, 0x5B, 0x6A, 0xFD, 0xCC, 0x9F, 0xAE, 0x80, 0xB1, 0xE2, 0xD3, 0x44, 0x75, 0x26, 0x17]
    ++ [0xFC, 0xCD, 0x9E, 0xAF, 0x38, 0x09, 0x5A, 0x6B, 0x45, 0x74, 0x27, 0x16, 0x81, 0xB0, 0xE3, 0xD2]
    ++ [0xBF, 0x8E, 0xDD, 0xEC, 0x7B, 0x4A, 0x19, 0x28, 0x06, 0x37, 0x64, 0x55, 0xC2, 0xF3, 0xA0, 0x91]
    ++ [0x47, 0x76, 0x25, 0x14, 0x83, 0xB2, 0xE1, 0xD0, 0xFE, 0xCF, 0x9C, 0xAD, 0x3A, 0x0B, 0x58, 0x69]
    ++ [0x04, 0x35, 0x66, 0x57, 0xC0, 0xF1, 0xA2, 0x93, 0xBD, 0x8C, 0xDF, 0xEE, 0x79, 0x48, 0x1B, 0x2A]
    ++ [0xC1, 0xF0, 0xA3, 0x92, 0x05, 0x34, 0x67, 0x56, 0x78, 0x49, 0x1A, 0x2B, 0xBC, 0x8D, 0xDE, 0xEF]
    ++ [0x82, 0xB3, 0xE0, 0xD1, 0x46, 0x77, 0x24, 0x15, 0x3B, 0x0A, 0x59, 0x68, 0xFF, 0xCE, 0x9D, 0xAC]

/-- The 24 bits of a group, first byte most significant (R70). -/
def groupBits (w : Word) : BitVec 24 := hi w ++ lo w ++ crc8Word w

/-- `crc8_check` on the 24 bits of a group. -/
def groupPasses (g : BitVec 24) : Bool := crc8Check (g.extractLsb' 8 16) (g.extractLsb' 0 8)

/-- The three bytes of 24 bits, in wire order. -/
def bytesOf (g : BitVec 24) : List Byte := [g.extractLsb' 16 8, g.extractLsb' 8 8, g.extractLsb' 0 8]

/-- How many bits an error pattern flips. -/
def flips (e : BitVec 24) : Nat := ((List.range 24).filter (fun i => e.getLsbD i)).length

/-- The wire bytes of words whose groups were altered by error patterns. -/
def alteredBytes : List (Word × BitVec 24) → List Byte
  | [] => []
  | p :: ps => bytesOf (groupBits p.1 ^^^ p.2) ++ alteredBytes ps

/-- The index of the first group that an error pattern altered, counted from `k`. -/
def firstAltered : Nat → List (Word × BitVec 24) → Option Nat
  | _, [] => none
  | k, p :: ps => if p.2 = 0 then firstAltered (k + 1) ps else some k

/-- A state in which a T item is on offer: the five offering states of R126. -/
def Offering (st : TxState) : Prop := st = .oph ∨ st = .opl ∨ st = .ah ∨ st = .al ∨ st = .ac

/-- The five host commands whose answer is a pure read-out, and the two of the CRC unit (R57). -/
def IsRead : Instr → Prop
  | .crcGen _ => True
  | .crcChk _ _ => True
  | .txStart _ _ => False
  | .txArg _ => False
  | .txAbort => False
  | .txStat => True
  | .rxStart _ => False
  | .rxResult => True
  | .rxRdword _ => True
  | .rxClear => False
  | .rxStat => True
  | .txByte => False
  | .rxByte _ => False
  | .rxEnd _ => False

/-- The same state but for the registers that R43 leaves unspecified (`tx_opcode`, `tx_word`, `tx_crc`, `rx_hi`,
`rx_lo`). -/
def withUnspecified (s : State) (opcode word : Word) (crc h l : Byte) : State :=
  { s with
    tx := { s.tx with opcode := opcode, word := word, crc := crc }
    rx := { s.rx with hi := h, lo := l } }

/-- The same state but for the content of the buffer. -/
def withBuffer (s : State) (m : Memory) : State := { s with rx := { s.rx with buf := m } }

/-- The response RX.RESULT owes a decoded response of `n` expected words (R163). -/
def resultResponse (n : Byte) : Except FrameError (List Word) → Word32
  | .ok _ => (0 : BitVec 24) ++ n
  | .error (.checksum k) => (0x40 : Byte) ++ BitVec.ofNat 8 k ++ (0 : Word)
  | .error .length => onlyStatus 5

/-- The response RX.RDWORD owes for the index `i` (R163). -/
def rdwordResponse (i : Byte) : Except FrameError (List Word) → Word32
  | .ok ws =>
    match ws[i.toNat]? with
    | some w => (0 : Word) ++ w
    | none => onlyStatus 3
  | .error _ => onlyStatus 2

/-- The words of a decoded response, none when it failed (R151). -/
def deliveredWords : Except FrameError (List Word) → List Word
  | .ok ws => ws
  | .error _ => []

/-- The responses a sequence of operations gives, in order, each with the unit of the command it answers. -/
def answerLog : List Instr → State → List (Part × Word32)
  | [], _ => []
  | i :: is, s =>
    match exec i s with
    | .next t => (t.ports.responses.drop s.ports.responses.length).map (fun r => (i.part, r)) ++ answerLog is t
    | .fault _ => []
    | .refused _ => []

/-- Those of one unit's commands. -/
def answersOf (p : Part) (is : List Instr) (s : State) : List Word32 :=
  ((answerLog is s).filter (fun a => a.1 = p)).map Prod.snd

/-- Every R transfer of a sequence meets a ready R port when its turn comes, starting from `s` (R156). -/
def RTransfersReady (is : List Instr) (s : State) : Prop :=
  ∀ pre i post u, is = pre ++ i :: post → i.isHost = false → i.part = .rx → runInstrs pre s = .next u →
    u.rx.state = .active

end Sys2Proof.Claims

open Sys2Proof Sys2Proof.Machine Sys2Proof.Claims

/-! ## Encoding -/

/-- R79: "`decode` after `encode` gives back the operation and operands, and `encode` after `decode` of a legal word
gives back the word". For the R items of R82 and the T port as well. -/
def Obligations.DecodeAndEncodeAgree : Prop :=
  (∀ i : Instr, decode (encode i) = .ok i) ∧ (∀ (p : Presented) (i : Instr), decode p = .ok i → encode i = p)

/-- R78: "a word c selects the row when `(c & mask) == match`. The rows are disjoint, and a word that selects no row is
illegal"; each row with its own mask and match. -/
def Obligations.DecodeSelectsByMaskAndMatch : Prop :=
  (∀ c : Word32,
    ((∃ w, decodeCmd c = .ok (.crcGen w)) ↔ c &&& 0xFFFF0000 = 0x10000000) ∧
    ((∃ k w, decodeCmd c = .ok (.crcChk k w)) ↔ c &&& 0xFF000000 = 0x20000000) ∧
    ((∃ n op, decodeCmd c = .ok (.txStart n op)) ↔ c &&& 0xFF000000 = 0x40000000) ∧
    ((∃ w, decodeCmd c = .ok (.txArg w)) ↔ c &&& 0xFFFF0000 = 0x50000000) ∧
    (decodeCmd c = .ok .txAbort ↔ c &&& 0xFFFFFFFF = 0x60000000) ∧
    (decodeCmd c = .ok .txStat ↔ c &&& 0xFFFFFFFF = 0x70000000) ∧
    ((∃ n, decodeCmd c = .ok (.rxStart n)) ↔ c &&& 0xFF00FFFF = 0x80000000) ∧
    (decodeCmd c = .ok .rxResult ↔ c &&& 0xFFFFFFFF = 0x90000000) ∧
    ((∃ k, decodeCmd c = .ok (.rxRdword k)) ↔ c &&& 0xFF00FFFF = 0xA0000000) ∧
    (decodeCmd c = .ok .rxClear ↔ c &&& 0xFFFFFFFF = 0xB0000000) ∧
    (decodeCmd c = .ok .rxStat ↔ c &&& 0xFFFFFFFF = 0xC0000000)) ∧
  (∀ c : Word32, (∀ i, decodeCmd c = .ok i → i.isHost = true)) ∧
  (∀ it : Item,
    ((∃ b, decode (.rItem it) = .ok (.rxByte b)) ↔ it &&& 0x100 = 0x000) ∧
    ((∃ d, decode (.rItem it) = .ok (.rxEnd d)) ↔ it &&& 0x100 = 0x100)) ∧
  decode .tReady = .ok .txByte

/-- R80: which words are illegal (by operation code, `rsv` and the must-be-zero fields of the formats of R75), the
all-zero and the all-one word among them; and that an illegal word presented to the block is answered 0x10000000 and
changes no register of any unit. -/
def Obligations.IllegalWordsAreRefusedUnchanged : Prop :=
  (∀ c : Word32, (∃ e, decodeCmd c = .error e) ↔ (CmdFields.ofWord c).wellFormed = false) ∧
  (CmdFields.ofWord 0x00000000).wellFormed = false ∧
  (CmdFields.ofWord 0xFFFFFFFF).wellFormed = false ∧
  (∀ n : Byte, ∃ c, encode (.rxStart n) = .host c ∧ (CmdFields.ofWord c).wellFormed = true) ∧
  (∀ k : Byte, ∃ c, encode (.rxRdword k) = .host c ∧ (CmdFields.ofWord c).wellFormed = true) ∧
  (∀ (s : State) (ts : List Turn) (c : Word32) (cs : List Word32),
    s.ports.turns = .host :: ts → s.ports.cmds = c :: cs → (CmdFields.ofWord c).wellFormed = false →
    step s = .next
      { s with
        ports := { s.ports with turns := ts, cmds := cs, responses := s.ports.responses ++ [0x10000000] } })

/-- Words written out bit by bit from the encodings of R78 and R82 decode to what they stand for. -/
def Obligations.WordsDecodeAsWritten : Prop :=
  decode (.host 0b00010000000000001011111011101111) = .ok (.crcGen 0xBEEF) ∧
  decode (.host 0b00100000100100101011111011101111) = .ok (.crcChk 0x92 0xBEEF) ∧
  decode (.host 0b01000000000000010001001000110100) = .ok (.txStart 1 0x1234) ∧
  decode (.host 0b01110000000000000000000000000000) = .ok .txStat ∧
  decode (.host 0b10100000000000010000000000000000) = .ok (.rxRdword 1) ∧
  decode (.rItem 0b010111110) = .ok (.rxByte 0xBE) ∧
  decode (.rItem 0b100000000) = .ok (.rxEnd 0)

/-! ## The step -/

/-- A step performs the operation that the agent whose turn it is presents (R10, R51, R52, R53): the host's command
word, the taking of a T item while `tx_valid` is 1, the R item on offer while `rx_ready` is 1. Around the operation the
step uses up the turn and takes what was presented. -/
def Obligations.StepRunsTheDecodedOperation : Prop :=
  (∀ (s : State) (ts : List Turn) (c : Word32) (cs : List Word32) (i : Instr),
    s.ports.turns = .host :: ts → s.ports.cmds = c :: cs → decode (.host c) = .ok i →
    step s = exec i { s with ports := { s.ports with turns := ts, cmds := cs } }) ∧
  (∀ (s : State) (ts : List Turn), s.ports.turns = .t :: ts → Offering s.tx.state →
    step s = exec .txByte { s with ports := { s.ports with turns := ts } }) ∧
  (∀ (s : State) (ts : List Turn) (it : Item) (its : List Item) (i : Instr),
    s.ports.turns = .r :: ts → s.ports.rItems = it :: its → s.rx.state = .active → decode (.rItem it) = .ok i →
    step s = exec i { s with ports := { s.ports with turns := ts, rItems := its } })

/-- R156 and R227: while `rx_state` is not `R_ACTIVE` the transport's item waits at the port, untouched. R53: with no item
offered there is no R transfer, whatever `rx_state` is. R52: while nothing is offered no T transfer happens. R10: with no
step there is no change. Only the turn is used up (the turns are the model's own, log entries 1 and 7). -/
def Obligations.PortsWaitUntouched : Prop :=
  (∀ (s : State) (ts : List Turn), s.ports.turns = .r :: ts → s.rx.state ≠ .active →
    step s = .next { s with ports := { s.ports with turns := ts } }) ∧
  (∀ (s : State) (ts : List Turn), s.ports.turns = .r :: ts → s.ports.rItems = [] →
    step s = .next { s with ports := { s.ports with turns := ts } }) ∧
  (∀ (s : State) (ts : List Turn), s.ports.turns = .t :: ts → s.tx.state = .idle ∨ s.tx.state = .wait →
    step s = .next { s with ports := { s.ports with turns := ts } }) ∧
  (∀ (s : State) (ts : List Turn), s.ports.turns = .host :: ts → s.ports.cmds = [] →
    step s = .next { s with ports := { s.ports with turns := ts } }) ∧
  (∀ s : State, s.ports.turns = [] → step s = .next s)

/-- The model's choice of log entry 2: an operation of a stream port performed while its port is not enabled ("no such
step" in R123 and R154) leaves the whole state as it is. -/
def Obligations.DisabledTransfersChangeNothing : Prop :=
  (∀ s : State, s.tx.state = .idle ∨ s.tx.state = .wait → exec .txByte s = .next s) ∧
  (∀ (s : State) (b : Byte), s.rx.state ≠ .active → exec (.rxByte b) s = .next s) ∧
  (∀ (s : State) (d : Byte), s.rx.state ≠ .active → exec (.rxEnd d) s = .next s)

/-- R43, for `State.reset`: every register for which the table gives a value has it; no buffer entry holds a value;
nothing is offered on the T port; the R port is not ready; no response is pending; the host port takes every command. -/
def Obligations.ResetRegisterValues : Prop :=
  State.reset.tx.state = .idle ∧ State.reset.tx.rem = 0 ∧
  State.reset.rx.state = .idle ∧ State.reset.rx.expect = 0 ∧ State.reset.rx.widx = 0 ∧ State.reset.rx.phase = .p0 ∧
  State.reset.rx.overflow = false ∧ State.reset.rx.cerr = false ∧ State.reset.rx.cidx = 0 ∧
  State.reset.rx.res = .ok ∧ (∀ k, Memory.find k State.reset.rx.buf = none) ∧
  txOffer State.reset.tx = none ∧ rxReady State.reset.rx = false ∧ State.reset.ports.responses = [] ∧
  (∀ i : Instr, i.isHost = true → ∃ t, exec i State.reset = .next t)

/-- R220 to R222: on an edge with `rst` = 1 there is the reset and nothing else; it may come in any state; every register
R43 gives a value takes it; no command and no item is taken, no response is produced, and what was transferred stays
transferred. (`tx_opcode`, `tx_word`, `tx_crc`, `rx_hi`, `rx_lo` are unspecified after it and not spoken of.) -/
def Obligations.ResetEdgeResetsAndNothingElse : Prop :=
  (∀ e : Edge, e.rst = true → edgeTurns e = [.reset]) ∧
  (∀ (s : State) (ts : List Turn), s.ports.turns = .reset :: ts →
    ∃ t, step s = .next t ∧
      t.tx.state = .idle ∧ t.tx.rem = 0 ∧
      t.rx.state = .idle ∧ t.rx.expect = 0 ∧ t.rx.widx = 0 ∧ t.rx.phase = .p0 ∧ t.rx.overflow = false ∧
      t.rx.cerr = false ∧ t.rx.cidx = 0 ∧ t.rx.res = .ok ∧ (∀ k, Memory.find k t.rx.buf = none) ∧
      t.config = s.config ∧ t.ports = { s.ports with turns := ts })

/-- R222: "Reset differs from TX.ABORT plus RX.CLEAR only in producing no response word": the registers that reset gives
a value are left alike by both. -/
def Obligations.ResetActsAsAbortPlusClear : Prop :=
  ∀ s : State, ∃ t, runInstrs [.txAbort, .rxClear] s = .next t ∧
    t.ports.responses = s.ports.responses ++ [0, 0] ∧
    (resetBlock s).ports.responses = s.ports.responses ∧
    t.tx.state = (resetBlock s).tx.state ∧ t.tx.rem = (resetBlock s).tx.rem ∧
    t.rx = { (resetBlock s).rx with hi := s.rx.hi, lo := s.rx.lo } ∧ t.config = (resetBlock s).config

/-- R65: the order on one clock edge, and its two examples: TX.ARG on the edge that transfers the CRC byte of the
previous argument is accepted if arguments remain; RX.RESULT on the edge that transfers the end mark is answered with
the verdict. -/
def Obligations.OneEdgeIsTransfersThenCommand : Prop :=
  (∀ e : Edge, e.rst = false →
    edgeTurns e =
      (if e.rxValid then [Turn.r] else []) ++ (if e.txReady then [Turn.t] else []) ++
        (if e.cmdValid then [Turn.host] else [])) ∧
  (∀ (s : State) (w : Word) (c : Word32) (cs : List Word32) (ts : List Turn),
    s.tx.state = .ac → 1 ≤ s.tx.rem → encode (.txArg w) = .host c → s.ports.cmds = c :: cs →
    s.ports.turns = edgeTurns { rst := false, rxValid := false, txReady := true, cmdValid := true } ++ ts →
    ∃ t, Host.Core.run Sys2Proof.core 2 s = .next t ∧ t.tx.state = .ah ∧ t.tx.word = w ∧
      t.ports.tItems = s.ports.tItems ++ [(0 : BitVec 1) ++ s.tx.crc] ∧
      t.ports.responses = s.ports.responses ++ [0]) ∧
  (∀ (s : State) (d : Byte) (it : Item) (its : List Item) (c : Word32) (cs : List Word32) (ts : List Turn),
    s.rx.state = .active → encode (.rxEnd d) = .rItem it → s.ports.rItems = it :: its →
    encode .rxResult = .host c → s.ports.cmds = c :: cs →
    s.ports.turns = edgeTurns { rst := false, rxValid := true, txReady := false, cmdValid := true } ++ ts →
    ∃ t, Host.Core.run Sys2Proof.core 2 s = .next t ∧ t.rx.state = .done ∧
      t.ports.responses = s.ports.responses ++
        [if s.rx.overflow = true ∨ s.rx.widx ≠ s.rx.expect ∨ s.rx.phase ≠ .p0 then onlyStatus 5
         else if s.rx.cerr = true then (0x40 : Byte) ++ s.rx.cidx ++ (0 : Word)
         else (0 : BitVec 24) ++ s.rx.expect])

/-- Presenting operations at the ports, each in its encoding and on its agent's turn, performs exactly them, provided every
R transfer meets a ready port (R10, R51 to R53, R79). The queues are the model's own (log entry 1). -/
def Obligations.PresentedOperationsArePerformed : Prop :=
  ∀ (is : List Instr) (s : State), RTransfersReady is s →
    Host.Core.run Sys2Proof.core is.length (s.presenting is) = runInstrs is s

/-! ## The CRC unit -/

/-- The parallel form of 40_crc8.md section 2, the spec's own inference ("[derived: from rule R101 by carrying each bit of
r through the eight shifts"). -/
def Obligations.CrcParallelFormIsTheLoop : Prop := ∀ c b : Byte, crc8Parallel c b = crc8Update c b

/-- The table form of 40_crc8.md section 2 with the 256 entries of 95_test_vectors.md V4 (the spec's own inference). -/
def Obligations.CrcTableIsTheLoop : Prop :=
  crcTable.length = 256 ∧ (∀ c b : Byte, crcTable[(c ^^^ b).toNat]? = some (crc8Update c b))

/-- The arithmetic laws (a) to (f) of 40_crc8.md section 2 (the spec's own inference: "[derived: from rule R101"). -/
def Obligations.CrcArithmeticLaws : Prop :=
  (∀ j k : Byte, crcT (j ^^^ k) = crcT j ^^^ crcT k) ∧ crcT 0 = 0 ∧
  (∀ c b : Byte, crc8Update c b = crcT c ^^^ crcT b) ∧
  Function.Bijective crcT ∧ (∀ k : Byte, crcT k = 0 ↔ k = 0) ∧
  (∀ u v : Word, crc8Word (u ^^^ v) = crc8Word u ^^^ crc8Word v ^^^ crc8Word 0x0000) ∧ crc8Word 0x0000 = 0x81 ∧
  (∀ c h : Byte, ∃! l : Byte, crc8Word (mkWord h l) = c) ∧
  crc8Word 0xFF00 = 0x00

/-- The zero residue of 40_crc8.md section 1 (R104's second sentence, the spec's own inference): running the three bytes
through the register gives 0 exactly when the checksum matches. -/
def Obligations.ZeroResidueExactlyWhenChecked : Prop :=
  ∀ (w : Word) (c : Byte), crc8Bytes [hi w, lo w, c] = 0x00 ↔ crc8Check w c = true

/-- Detection strength on one group (40_crc8.md section 2, R108, the spec's own inference): every alteration of 1, 2, 3
or 5 bits makes the check fail, and some alteration of 4 bits passes on every group, so the minimum distance is 4. -/
def Obligations.CrcMinimumDistanceIsFour : Prop :=
  (∀ (w : Word) (e : BitVec 24), 1 ≤ flips e → flips e ≤ 3 ∨ flips e = 5 → groupPasses (groupBits w ^^^ e) = false) ∧
  (∃ e : BitVec 24, flips e = 4 ∧ ∀ w : Word, groupPasses (groupBits w ^^^ e) = true)

/-- R110: CRC.GEN in full: its word, its answer in every state, no register written, the corner cases. -/
def Obligations.CrcGenAnswersTheChecksum : Prop :=
  (∀ w : Word, encode (.crcGen w) = .host ((0x1000 : Word) ++ w)) ∧
  (∀ (w : Word) (s : State), exec (.crcGen w) s = .next (s.giveResponse ((0 : BitVec 24) ++ crc8Word w))) ∧
  crc8Word 0x0000 = 0x81 ∧ crc8Word 0xFFFF = 0xAC ∧ crc8Word 0xFF00 = 0x00 ∧ crc8Word 0xBEEF = 0x92

/-- CRC.CHK (40_crc8.md section 3, R111): its word, its answer in every state (a mismatch is a normal answer), no register
written; and for each word exactly one byte that matches, which is the spec's own inference there ("for each w exactly one
of the 256 values of c gives 1 [derived: rule R104]"). -/
def Obligations.CrcChkAnswersTheMatch : Prop :=
  (∀ (c : Byte) (w : Word), encode (.crcChk c w) = .host ((0x20 : Byte) ++ c ++ w)) ∧
  (∀ (c : Byte) (w : Word) (s : State),
    exec (.crcChk c w) s = .next (s.giveResponse (if crc8Word w = c then 0x00000001 else 0x00000000))) ∧
  (∀ w : Word, ∃! c : Byte, crc8Check w c = true) ∧ crc8Check 0xFF00 0x00 = true ∧
  crc8Check 0xBEEF 0x92 = true ∧ crc8Check 0xBEEF 0x93 = false

/-! ## The TX unit -/

/-- R124: TX.START in full: its word; from `T_IDLE` the three registers it writes and the answer 0, after which the T port
offers `hi(op)` with last = 0; in any other state `E_STATE` and nothing written. -/
def Obligations.TxStartBeginsAFrame : Prop :=
  (∀ (n : Byte) (op : Word), encode (.txStart n op) = .host ((0x40 : Byte) ++ n ++ op)) ∧
  (∀ (n : Byte) (op : Word) (s : State), s.tx.state = .idle →
    exec (.txStart n op) s =
      .next ({ s with tx := { s.tx with opcode := op, rem := n, state := .oph } }.giveResponse 0x00000000) ∧
    txOffer { s.tx with opcode := op, rem := n, state := .oph } = some ((0 : BitVec 1) ++ hi op)) ∧
  (∀ (n : Byte) (op : Word) (s : State), s.tx.state ≠ .idle →
    exec (.txStart n op) s = .next (s.giveResponse 0x20000000))

/-- R125: TX.ARG in full: its word; in `T_WAIT` the four registers it writes and the answer 0; in any other state
`E_STATE` and nothing written; and no subtraction below zero where the invariant of R27 holds. -/
def Obligations.TxArgSuppliesTheNextWord : Prop :=
  (∀ w : Word, encode (.txArg w) = .host ((0x5000 : Word) ++ w)) ∧
  (∀ (w : Word) (s : State), s.tx.state = .wait →
    exec (.txArg w) s =
      .next ({ s with
        tx := { s.tx with word := w, crc := crc8Word w, rem := s.tx.rem - 1, state := .ah } }.giveResponse 0x00000000)) ∧
  (∀ s : State, s.Inv → s.tx.state = .wait → (s.tx.rem - 1).toNat + 1 = s.tx.rem.toNat) ∧
  (∀ (w : Word) (s : State), s.tx.state ≠ .wait → exec (.txArg w) s = .next (s.giveResponse 0x20000000))

/-- R126: what the T port offers, a function of the TX registers alone: `tx_valid`, and the item `{tx_last, tx_data}`. -/
def Obligations.TxPortOffersByState : Prop :=
  ∀ tx : TxRegs,
    (tx.state = .idle → txOffer tx = none) ∧
    (tx.state = .oph → txOffer tx = some ((0 : BitVec 1) ++ hi tx.opcode)) ∧
    (tx.state = .opl → txOffer tx = some (BitVec.ofBool (decide (tx.rem = 0)) ++ lo tx.opcode)) ∧
    (tx.state = .wait → txOffer tx = none) ∧
    (tx.state = .ah → txOffer tx = some ((0 : BitVec 1) ++ hi tx.word)) ∧
    (tx.state = .al → txOffer tx = some ((0 : BitVec 1) ++ lo tx.word)) ∧
    (tx.state = .ac → txOffer tx = some (BitVec.ofBool (decide (tx.rem = 0)) ++ tx.crc)) ∧
    (txValid tx = true ↔ tx.state ≠ .idle ∧ tx.state ≠ .wait)

/-- R127: TX.BYTE while an item is on offer: the transport takes that item, and `tx_state` alone is written. -/
def Obligations.TxByteDeliversTheOffer : Prop :=
  ∀ (s : State) (it : Item), txOffer s.tx = some it →
    (s.tx.state = .oph → exec .txByte s = .next ({ s with tx := { s.tx with state := .opl } }.giveItem it)) ∧
    (s.tx.state = .opl → exec .txByte s =
      .next ({ s with tx := { s.tx with state := if s.tx.rem = 0 then .idle else .wait } }.giveItem it)) ∧
    (s.tx.state = .ah → exec .txByte s = .next ({ s with tx := { s.tx with state := .al } }.giveItem it)) ∧
    (s.tx.state = .al → exec .txByte s = .next ({ s with tx := { s.tx with state := .ac } }.giveItem it)) ∧
    (s.tx.state = .ac → exec .txByte s =
      .next ({ s with tx := { s.tx with state := if s.tx.rem = 0 then .idle else .wait } }.giveItem it))

/-- R128: TX.ABORT in full: its word; accepted in every state; `tx_state` and `tx_rem` written; nothing offered after it;
no item leaves; in `T_IDLE` (where R27 makes `tx_rem` 0) it changes no register. -/
def Obligations.TxAbortFreesTheUnit : Prop :=
  encode .txAbort = .host 0x60000000 ∧
  (∀ s : State, exec .txAbort s =
    .next ({ s with tx := { s.tx with state := .idle, rem := 0 } }.giveResponse 0x00000000)) ∧
  (∀ s t : State, exec .txAbort s = .next t → txOffer t.tx = none ∧ t.ports.tItems = s.ports.tItems) ∧
  (∀ s : State, s.Inv → s.tx.state = .idle → exec .txAbort s = .next (s.giveResponse 0x00000000))

/-- R129 with the codes of R22: TX.STAT in full: its word; in every state the answer with `tx_rem` and `tx_state`; no
register written. -/
def Obligations.TxStatShowsTheUnit : Prop :=
  encode .txStat = .host 0x70000000 ∧
  ∀ s : State, exec .txStat s = .next (s.giveResponse ((0 : Byte) ++ s.tx.rem ++ (0 : BitVec 13) ++
    (match s.tx.state with
      | .idle => (0 : BitVec 3) | .oph => 1 | .opl => 2 | .wait => 3 | .ah => 4 | .al => 5 | .ac => 6)))

/-- R123: "the rows are all the transitions there are": whatever operation changes `tx_state` is one of the rows. -/
def Obligations.TxTransitionsAreTheTable : Prop :=
  ∀ (i : Instr) (s t : State), exec i s = .next t → t.tx.state ≠ s.tx.state →
    (s.tx.state = .idle ∧ t.tx.state = .oph ∧ ∃ n op, i = .txStart n op ∧ t.tx.opcode = op ∧ t.tx.rem = n) ∨
    (s.tx.state = .oph ∧ t.tx.state = .opl ∧ i = .txByte) ∨
    (s.tx.state = .opl ∧ s.tx.rem = 0 ∧ t.tx.state = .idle ∧ i = .txByte) ∨
    (s.tx.state = .opl ∧ s.tx.rem ≠ 0 ∧ t.tx.state = .wait ∧ i = .txByte) ∨
    (s.tx.state = .wait ∧ t.tx.state = .ah ∧
      ∃ w, i = .txArg w ∧ t.tx.word = w ∧ t.tx.crc = crc8Word w ∧ t.tx.rem = s.tx.rem - 1) ∨
    (s.tx.state = .ah ∧ t.tx.state = .al ∧ i = .txByte) ∨
    (s.tx.state = .al ∧ t.tx.state = .ac ∧ i = .txByte) ∨
    (s.tx.state = .ac ∧ s.tx.rem = 0 ∧ t.tx.state = .idle ∧ i = .txByte) ∨
    (s.tx.state = .ac ∧ s.tx.rem ≠ 0 ∧ t.tx.state = .wait ∧ i = .txByte) ∨
    (t.tx.state = .idle ∧ t.tx.rem = 0 ∧ i = .txAbort)

/-- R52: "While `tx_valid` is 1 and no transfer happens, the offered item does not change unless TX.ABORT or reset
intervenes", whatever other operations are performed meanwhile. -/
def Obligations.OfferedItemIsStable : Prop :=
  ∀ (is : List Instr) (s t : State) (it : Item), runInstrs is s = .next t → txOffer s.tx = some it →
    (∀ i ∈ is, i ≠ .txByte ∧ i ≠ .txAbort) → txOffer t.tx = some it

/-- R132: the unit stays in an offering state until the transport takes the item, and in `T_WAIT` until the host supplies
an argument (or TX.ABORT or reset comes), however many other operations are performed. -/
def Obligations.TxUnitWaitsForTheMissingStep : Prop :=
  (∀ (is : List Instr) (s t : State), runInstrs is s = .next t → Offering s.tx.state →
    (∀ i ∈ is, i ≠ .txByte ∧ i ≠ .txAbort) → t.tx = s.tx) ∧
  (∀ (is : List Instr) (s t : State), runInstrs is s = .next t → s.tx.state = .wait →
    (∀ i ∈ is, (∀ w, i ≠ .txArg w) ∧ i ≠ .txAbort) → t.tx = s.tx)

/-- R130 (the spec's own inference "[derived: from rules R123 to R127 by induction on n]"), with R85's ENCODE: from
`T_IDLE`, with any history, the steps answer `OK` throughout, deliver exactly the bytes of `encode_command` with `last` on
the final one only, and leave the unit idle and the other units untouched. -/
def Obligations.EncodeStepsComputeEncodeCommand : Prop :=
  ∀ (op : Word) (args : List Word) (s : State), args.length ≤ 255 → s.tx.state = .idle →
    (encodeCommand op args).length = 2 + 3 * args.length ∧
    ∃ t, runInstrs (encodeMacro op args) s = .next t ∧
      t.ports.responses = s.ports.responses ++ List.replicate (1 + args.length) 0x00000000 ∧
      t.ports.tItems = s.ports.tItems ++ frameItems (encodeCommand op args) ∧
      t.tx.state = .idle ∧ t.tx.rem = 0 ∧ t.rx = s.rx ∧ t.config = s.config

/-! ## The RX unit -/

/-- R155: RX.START in full: its word; `E_STATE` outside `R_IDLE`, tested first; `E_RANGE` above `MAX_RESP`; else every RX
register but `rx_hi` and `rx_lo` is written, no buffer entry holds a value, and the unit is in `R_ACTIVE`. -/
def Obligations.RxStartBeginsAFrame : Prop :=
  (∀ n : Byte, encode (.rxStart n) = .host ((0x80 : Byte) ++ n ++ (0 : Word))) ∧
  (∀ (n : Byte) (s : State), s.rx.state ≠ .idle → exec (.rxStart n) s = .next (s.giveResponse 0x20000000)) ∧
  (∀ (n : Byte) (s : State), s.rx.state = .idle → s.config.maxResp < n.toNat →
    exec (.rxStart n) s = .next (s.giveResponse 0x30000000)) ∧
  (∀ (n : Byte) (s : State), s.rx.state = .idle → n.toNat ≤ s.config.maxResp →
    exec (.rxStart n) s = .next ({ s with
      rx := { state := .active, expect := n, widx := 0, phase := .p0, hi := s.rx.hi, lo := s.rx.lo, overflow := false,
              cerr := false, cidx := 0, res := .ok, buf := [] } }.giveResponse 0x00000000))

/-- R157: RX.BYTE's item; in `R_ACTIVE`, the five things it does: a byte beyond `3 * rx_expect` is dropped with `rx_over` set; the
first and the second byte of a group are held; the third closes the group, with the word written to `rx_buf[rx_widx]`
alone when it is the CRC, else with `rx_cerr` and `rx_cidx` written if this is the first failing group. No step has a
response. (A group in `R_ACTIVE` that is not beyond the frame lies below `MAX_RESP` by R37(b).) -/
def Obligations.RxByteTakesOneByte : Prop :=
  (∀ b : Byte, encode (.rxByte b) = .rItem ((0 : BitVec 1) ++ b)) ∧
  ∀ (b : Byte) (s : State), s.rx.state = .active →
    (s.rx.overflow = true ∨ s.rx.widx = s.rx.expect →
      exec (.rxByte b) s = .next { s with rx := { s.rx with overflow := true } }) ∧
    (s.rx.overflow = false → s.rx.widx ≠ s.rx.expect → s.rx.phase = .p0 →
      exec (.rxByte b) s = .next { s with rx := { s.rx with hi := b, phase := .p1 } }) ∧
    (s.rx.overflow = false → s.rx.widx ≠ s.rx.expect → s.rx.phase = .p1 →
      exec (.rxByte b) s = .next { s with rx := { s.rx with lo := b, phase := .p2 } }) ∧
    (s.rx.overflow = false → s.rx.widx ≠ s.rx.expect → s.rx.phase = .p2 → s.rx.widx.toNat < s.config.maxResp →
      crc8Word (mkWord s.rx.hi s.rx.lo) = b →
      ∃ m, exec (.rxByte b) s = .next { s with rx := { s.rx with buf := m, widx := s.rx.widx + 1, phase := .p0 } } ∧
        Memory.find s.rx.widx.toNat m = some (mkWord s.rx.hi s.rx.lo) ∧
        ∀ k, k ≠ s.rx.widx.toNat → Memory.find k m = Memory.find k s.rx.buf) ∧
    (s.rx.overflow = false → s.rx.widx ≠ s.rx.expect → s.rx.phase = .p2 → crc8Word (mkWord s.rx.hi s.rx.lo) ≠ b →
      s.rx.cerr = false →
      exec (.rxByte b) s = .next { s with
        rx := { s.rx with cerr := true, cidx := s.rx.widx, widx := s.rx.widx + 1, phase := .p0 } }) ∧
    (s.rx.overflow = false → s.rx.widx ≠ s.rx.expect → s.rx.phase = .p2 → crc8Word (mkWord s.rx.hi s.rx.lo) ≠ b →
      s.rx.cerr = true →
      exec (.rxByte b) s = .next { s with rx := { s.rx with widx := s.rx.widx + 1, phase := .p0 } })

/-- R158: RX.END in `R_ACTIVE`, whatever the ignored data field: the verdict, length before checksum, and `R_DONE`. -/
def Obligations.RxEndFixesTheVerdict : Prop :=
  (∀ d : Byte, encode (.rxEnd d) = .rItem ((1 : BitVec 1) ++ d)) ∧
  ∀ (d : Byte) (s : State), s.rx.state = .active →
    exec (.rxEnd d) s = .next { s with
      rx := { s.rx with
        state := .done
        res := if ¬ (s.rx.overflow = false ∧ s.rx.widx = s.rx.expect ∧ s.rx.phase = .p0) then .length
               else if s.rx.cerr = true then .checksum else .ok } }

/-- R159: RX.RESULT in full: its word; `E_STATE` outside `R_DONE`; else by `rx_res`: `OK` with the word count,
`E_CHECKSUM` with `rx_cidx`, `E_LENGTH`; no register written. -/
def Obligations.RxResultReadsTheVerdict : Prop :=
  encode .rxResult = .host 0x90000000 ∧
  ∀ s : State,
    (s.rx.state ≠ .done → exec .rxResult s = .next (s.giveResponse 0x20000000)) ∧
    (s.rx.state = .done → s.rx.res = .ok →
      exec .rxResult s = .next (s.giveResponse ((0 : BitVec 24) ++ s.rx.expect))) ∧
    (s.rx.state = .done → s.rx.res = .checksum →
      exec .rxResult s = .next (s.giveResponse ((0x40 : Byte) ++ s.rx.cidx ++ (0 : Word)))) ∧
    (s.rx.state = .done → s.rx.res = .length → exec .rxResult s = .next (s.giveResponse 0x50000000))

/-- RX.RDWORD (42_rx_decoder.md section 3, R160): its word; `E_STATE` unless a frame ended `RES_OK`, tested first; `E_RANGE`
at or beyond `rx_expect`; else the word of the entry; no register written. The last clause is the spec's own inference
("Every entry read under these conditions was written by RX.BYTE of this frame [derived: `10_state.md` rule R37(g)"): where
the invariant holds that entry has a value. That an entry may hold no value at all is the model's choice of log entry 5. -/
def Obligations.RxRdwordReadsADecodedWord : Prop :=
  (∀ k : Byte, encode (.rxRdword k) = .host ((0xA0 : Byte) ++ k ++ (0 : Word))) ∧
  (∀ (k : Byte) (s : State), s.rx.state ≠ .done ∨ s.rx.res ≠ .ok →
    exec (.rxRdword k) s = .next (s.giveResponse 0x20000000)) ∧
  (∀ (k : Byte) (s : State), s.rx.state = .done → s.rx.res = .ok → s.rx.expect ≤ k →
    exec (.rxRdword k) s = .next (s.giveResponse 0x30000000)) ∧
  (∀ (k : Byte) (w : Word) (s : State), s.rx.state = .done → s.rx.res = .ok → k < s.rx.expect →
    k.toNat < s.config.maxResp → Memory.find k.toNat s.rx.buf = some w →
    exec (.rxRdword k) s = .next (s.giveResponse ((0 : Word) ++ w))) ∧
  (∀ (k : Byte) (s : State), s.Inv → s.rx.state = .done → s.rx.res = .ok → k < s.rx.expect →
    ∃ w, Memory.find k.toNat s.rx.buf = some w ∧ exec (.rxRdword k) s = .next (s.giveResponse ((0 : Word) ++ w)))

/-- R161: RX.CLEAR in full: its word; accepted in every state; every RX register but `rx_hi` and `rx_lo` cleared, no buffer
entry with a value; in `R_IDLE` (by R37(h)) it changes no register; an item waiting at the R port is not consumed. -/
def Obligations.RxClearFreesTheUnit : Prop :=
  encode .rxClear = .host 0xB0000000 ∧
  (∀ s : State, exec .rxClear s = .next ({ s with
    rx := { state := .idle, expect := 0, widx := 0, phase := .p0, hi := s.rx.hi, lo := s.rx.lo, overflow := false,
            cerr := false, cidx := 0, res := .ok, buf := [] } }.giveResponse 0x00000000)) ∧
  (∀ s : State, s.Inv → s.rx.state = .idle → exec .rxClear s = .next (s.giveResponse 0x00000000)) ∧
  (∀ s t : State, exec .rxClear s = .next t → t.ports.rItems = s.ports.rItems)

/-- R162 with the codes of R28, R31, R35: RX.STAT in full: its word; in every state the answer with `rx_widx` and the
packed status; no register written. -/
def Obligations.RxStatShowsTheUnit : Prop :=
  encode .rxStat = .host 0xC0000000 ∧
  ∀ s : State, exec .rxStat s = .next (s.giveResponse ((0 : Byte) ++ s.rx.widx ++ s.rx.expect ++
    (match s.rx.res with | .ok => (0 : BitVec 2) | .checksum => 1 | .length => 2) ++
    BitVec.ofBool s.rx.cerr ++ BitVec.ofBool s.rx.overflow ++
    (match s.rx.phase with | .p0 => (0 : BitVec 2) | .p1 => 1 | .p2 => 2) ++
    (match s.rx.state with | .idle => (0 : BitVec 2) | .active => 1 | .done => 2)))

/-- R154: "the rows are all the transitions of `rx_state` there are". -/
def Obligations.RxTransitionsAreTheTable : Prop :=
  ∀ (i : Instr) (s t : State), exec i s = .next t → t.rx.state ≠ s.rx.state →
    (s.rx.state = .idle ∧ t.rx.state = .active ∧ ∃ n, i = .rxStart n ∧ n.toNat ≤ s.config.maxResp ∧ t.rx.expect = n) ∨
    (s.rx.state = .active ∧ t.rx.state = .done ∧ ∃ d, i = .rxEnd d ∧ t.rx.res = verdict s.rx) ∨
    (t.rx.state = .idle ∧ i = .rxClear)

/-- R165: the unit stays in `R_ACTIVE` until the end mark or RX.CLEAR, and in `R_DONE`, with every register of the unit
as it is, until RX.CLEAR, however many other operations are performed (resets apart). -/
def Obligations.RxUnitWaitsForTheMissingStep : Prop :=
  (∀ (is : List Instr) (s t : State), runInstrs is s = .next t → s.rx.state = .active →
    (∀ i ∈ is, (∀ d, i ≠ .rxEnd d) ∧ i ≠ .rxClear) → t.rx.state = .active ∧ t.rx.expect = s.rx.expect) ∧
  (∀ (is : List Instr) (s t : State), runInstrs is s = .next t → s.rx.state = .done →
    (∀ i ∈ is, i ≠ .rxClear) → t.rx = s.rx)

/-- R33, R34, R40: the flags are sticky: once set, `rx_over` and `rx_cerr` stay set, and `rx_cidx` keeps the index of the
first failing group, through every sequence of operations without RX.START and RX.CLEAR; and RX.BYTE and RX.END alone
change a flag otherwise. -/
def Obligations.RxFlagsAreSticky : Prop :=
  (∀ (is : List Instr) (s t : State), runInstrs is s = .next t →
    (∀ i ∈ is, (∀ n, i ≠ .rxStart n) ∧ i ≠ .rxClear) →
    (s.rx.overflow = true → t.rx.overflow = true) ∧
    (s.rx.cerr = true → t.rx.cerr = true ∧ t.rx.cidx = s.rx.cidx)) ∧
  (∀ (i : Instr) (s t : State), exec i s = .next t →
    (t.rx.overflow ≠ s.rx.overflow ∨ t.rx.cerr ≠ s.rx.cerr ∨ t.rx.res ≠ s.rx.res) →
    (∃ b, i = .rxByte b) ∨ (∃ d, i = .rxEnd d) ∨ (∃ n, i = .rxStart n) ∨ i = .rxClear)

/-- R163 (the spec's own inference "[derived: from rules R155 to R160"): from `R_IDLE`, with any history, feeding any bytes
and the end mark makes RX.RESULT and RX.RDWORD answer what `decode_response` says, for every index. -/
def Obligations.DecodeStepsComputeDecodeResponse : Prop :=
  ∀ (n : Byte) (bs : List Byte) (s : State), s.rx.state = .idle → n.toNat ≤ s.config.maxResp →
    ∃ t, runInstrs (feedSteps n bs) s = .next t ∧ t.rx.state = .done ∧ t.tx = s.tx ∧
      t.ports.responses = s.ports.responses ++ [0x00000000] ∧
      exec .rxResult t = .next (t.giveResponse (resultResponse n (decodeResponse bs n.toNat))) ∧
      ∀ k : Byte, exec (.rxRdword k) t = .next (t.giveResponse (rdwordResponse k (decodeResponse bs n.toNat)))

/-- R85's DECODE end to end (rests on the same inference of R163): its responses are `OK`, the verdict, the words of the
response if it decoded and none otherwise, `OK`; and the unit is free again. -/
def Obligations.DecodeMacroDeliversAllOrNothing : Prop :=
  ∀ (n : Byte) (bs : List Byte) (s : State), s.rx.state = .idle → n.toNat ≤ s.config.maxResp →
    ∃ t, runInstrs (decodeMacro n bs (decodeResponse bs n.toNat).isOk) s = .next t ∧
      t.ports.responses = s.ports.responses ++ [0x00000000, resultResponse n (decodeResponse bs n.toNat)] ++
        (deliveredWords (decodeResponse bs n.toNat)).map (fun w => ((0 : Word) ++ w : Word32)) ++ [0x00000000] ∧
      t.rx.state = .idle ∧ t.tx = s.tx ∧ t.ports.tItems = s.ports.tItems

/-! ## The document's functions -/

/-- R152: "decoding the checksum-appended encoding of those words yields the original sequence unchanged", for
`encode_words` and for a command frame without its first two bytes. -/
def Obligations.DecodingAnEncodingGivesTheWords : Prop :=
  (∀ ws : List Word, decodeResponse (encodeWords ws) ws.length = .ok ws) ∧
  (∀ (op : Word) (ws : List Word), decodeResponse ((encodeCommand op ws).drop 2) ws.length = .ok ws)

/-- R153 with its inference from R108: groups altered by flips of up to 3 bits each make `decode_response` fail with
`Checksum` at the lowest altered index, and with no alteration it succeeds; and the document's own case, one flipped bit in
the checksum byte of group i of a good encoding. -/
def Obligations.CorruptionIsReportedAtTheFirstGroup : Prop :=
  (∀ l : List (Word × BitVec 24), (∀ p ∈ l, flips p.2 ≤ 3) →
    decodeResponse (alteredBytes l) l.length =
      match firstAltered 0 l with
      | none => .ok (l.map Prod.fst)
      | some k => .error (.checksum k)) ∧
  (∀ (ws : List Word) (i j : Nat), i < ws.length → j < 8 →
    decodeResponse ((encodeWords ws).modify (3 * i + 2) (fun c => c ^^^ (1 <<< j))) ws.length =
      .error (.checksum i))

/-- S1 of 95_test_vectors.md on the block (rests on the inferences of R130 and R163): the T-port bytes of a command frame,
less the first two, fed to the R port with the argument count, decode `OK`, and every RX.RDWORD gives back its argument. -/
def Obligations.LoopbackGivesBackTheArguments : Prop :=
  ∀ (op : Word) (ws : List Word) (s : State), s.Quiescent → s.config.wf → ws.length ≤ s.config.maxResp →
    ∃ t, runInstrs (encodeMacro op ws) s = .next t ∧
      ∃ u, runInstrs (feedSteps (BitVec.ofNat 8 ws.length)
          ((t.ports.tItems.drop (s.ports.tItems.length + 2)).map (fun it => it.extractLsb' 0 8))) t = .next u ∧
        exec .rxResult u = .next (u.giveResponse (BitVec.ofNat 32 ws.length)) ∧
        ∀ (k : Nat) (w : Word), ws[k]? = some w →
          exec (.rxRdword (BitVec.ofNat 8 k)) u = .next (u.giveResponse ((0 : Word) ++ w))

/-! ## The whole machine -/

/-- R64: "A step of one unit reads and writes only that unit's registers. Hence any two steps of different units
commute": frames, and the same final registers, items and responses in either order. -/
def Obligations.UnitsAreIndependent : Prop :=
  (∀ (i : Instr) (s t : State), exec i s = .next t →
    (i.part ≠ .tx → t.tx = s.tx) ∧ (i.part ≠ .rx → t.rx = s.rx)) ∧
  (∀ (i : Instr) (s t : State) (rx : RxRegs), i.part ≠ .rx → exec i s = .next t →
    exec i { s with rx := rx } = .next { t with rx := rx }) ∧
  (∀ (i : Instr) (s t : State) (tx : TxRegs), i.part ≠ .tx → exec i s = .next t →
    exec i { s with tx := tx } = .next { t with tx := tx }) ∧
  (∀ (i j : Instr) (s : State), s.Inv → i.part ≠ j.part →
    ∃ a b t u ri rj, exec i s = .next a ∧ exec j s = .next b ∧
      a.ports.responses = s.ports.responses ++ ri ∧ b.ports.responses = s.ports.responses ++ rj ∧
      runInstrs [i, j] s = .next t ∧ runInstrs [j, i] s = .next u ∧
      t.ports.responses = s.ports.responses ++ ri ++ rj ∧ u.ports.responses = s.ports.responses ++ rj ++ ri ∧
      t.tx = u.tx ∧ t.rx = u.rx ∧ t.config = u.config ∧ t.ports.tItems = u.ports.tItems)

/-- P6 of 95_test_vectors.md (inferred there from R64): in any interleaving each unit gives the same responses and ends in
the same state as when its own operations are performed alone, the TX unit delivers the same items, and the responses of the
interleaving are those of its units' commands in the order of the commands. -/
def Obligations.InterleavingDisturbsNoUnit : Prop :=
  ∀ (is : List Instr) (s : State), s.Inv →
    ∃ t u v w, runInstrs is s = .next t ∧
      runInstrs (is.filter (fun i => i.part = .tx)) s = .next u ∧
      runInstrs (is.filter (fun i => i.part = .rx)) s = .next v ∧
      runInstrs (is.filter (fun i => i.part = .crc)) s = .next w ∧
      t.tx = u.tx ∧ t.ports.tItems = u.ports.tItems ∧ t.rx = v.rx ∧
      t.ports.responses = s.ports.responses ++ (answerLog is s).map Prod.snd ∧
      u.ports.responses = s.ports.responses ++ answersOf .tx is s ∧
      v.ports.responses = s.ports.responses ++ answersOf .rx is s ∧
      w.ports.responses = s.ports.responses ++ answersOf .crc is s

/-- R51, R190, R196(e): every host command is answered with exactly one response word and no item; a T transfer gives out
at most one item and no response; an R transfer gives out nothing. No operation touches the parameters or what the
agents have yet to present. -/
def Obligations.EveryCommandIsAnsweredOnce : Prop :=
  ∀ (i : Instr) (s t : State), exec i s = .next t →
    t.config = s.config ∧ t.ports.cmds = s.ports.cmds ∧ t.ports.rItems = s.ports.rItems ∧
    t.ports.turns = s.ports.turns ∧
    (i.isHost = true → t.ports.tItems = s.ports.tItems ∧ ∃ r, t.ports.responses = s.ports.responses ++ [r]) ∧
    (i.isHost = false → t.ports.responses = s.ports.responses) ∧
    (i = .txByte → t.ports.tItems = s.ports.tItems ++ (txOffer s.tx).toList) ∧
    (i ≠ .txByte → t.ports.tItems = s.ports.tItems)

/-- The "Written by" column of R41 (resets apart), which is also every operation's frame: a register that changes was
changed by an operation the table names for it. -/
def Obligations.RegistersAreWrittenOnlyByTheirOperations : Prop :=
  ∀ (i : Instr) (s t : State), exec i s = .next t →
    (t.tx.state ≠ s.tx.state → (∃ n op, i = .txStart n op) ∨ (∃ w, i = .txArg w) ∨ i = .txByte ∨ i = .txAbort) ∧
    (t.tx.opcode ≠ s.tx.opcode → ∃ n op, i = .txStart n op) ∧
    (t.tx.rem ≠ s.tx.rem → (∃ n op, i = .txStart n op) ∨ (∃ w, i = .txArg w) ∨ i = .txAbort) ∧
    (t.tx.word ≠ s.tx.word ∨ t.tx.crc ≠ s.tx.crc → ∃ w, i = .txArg w) ∧
    (t.rx.state ≠ s.rx.state → (∃ n, i = .rxStart n) ∨ (∃ d, i = .rxEnd d) ∨ i = .rxClear) ∧
    (t.rx.expect ≠ s.rx.expect → (∃ n, i = .rxStart n) ∨ i = .rxClear) ∧
    (t.rx.widx ≠ s.rx.widx ∨ t.rx.phase ≠ s.rx.phase ∨ t.rx.overflow ≠ s.rx.overflow ∨ t.rx.cerr ≠ s.rx.cerr ∨
      t.rx.cidx ≠ s.rx.cidx → (∃ n, i = .rxStart n) ∨ (∃ b, i = .rxByte b) ∨ i = .rxClear) ∧
    (t.rx.hi ≠ s.rx.hi ∨ t.rx.lo ≠ s.rx.lo → ∃ b, i = .rxByte b) ∧
    (t.rx.res ≠ s.rx.res → (∃ n, i = .rxStart n) ∨ (∃ d, i = .rxEnd d) ∨ i = .rxClear)

/-- R36: the frame of the buffer. RX.BYTE changes at most the entry that `rxStore`, the function its meaning uses, gives,
and that entry then holds the word given; RX.START (accepted) and RX.CLEAR leave no entry with a value; every other
operation, and a refused RX.START, leaves every entry as it was. -/
def Obligations.BufferChangesOnlyWhereStored : Prop :=
  ∀ (i : Instr) (s t : State), exec i s = .next t →
    (∀ b, i = .rxByte b → s.rx.state = .active →
      (∀ k, (∀ e w, rxStore b s.rx = some (e, w) → k ≠ e.toNat) → Memory.find k t.rx.buf = Memory.find k s.rx.buf) ∧
      (∀ e w, rxStore b s.rx = some (e, w) → Memory.find e.toNat t.rx.buf = some w)) ∧
    ((∃ n, i = .rxStart n) ∧ t.rx.state ≠ s.rx.state ∨ i = .rxClear → ∀ k, Memory.find k t.rx.buf = none) ∧
    (((∀ b, i ≠ .rxByte b) ∨ s.rx.state ≠ .active) → i ≠ .rxClear →
      ((∀ n, i ≠ .rxStart n) ∨ t.rx.state = s.rx.state) → ∀ k, Memory.find k t.rx.buf = Memory.find k s.rx.buf)

/-- R191 for the four errors an operation can raise, R76 for the shape of the words: exactly when each status is
answered, and what the rest of the word holds. `E_ILLEGAL` is never an operation's answer. -/
def Obligations.StatusesHaveTheirCauses : Prop :=
  ∀ (i : Instr) (s t : State) (r : Word32), exec i s = .next t → t.ports.responses = s.ports.responses ++ [r] →
    (rspSt r = 2 ↔
      ((∃ n op, i = .txStart n op) ∧ s.tx.state ≠ .idle) ∨ ((∃ w, i = .txArg w) ∧ s.tx.state ≠ .wait) ∨
      ((∃ n, i = .rxStart n) ∧ s.rx.state ≠ .idle) ∨ (i = .rxResult ∧ s.rx.state ≠ .done) ∨
      ((∃ k, i = .rxRdword k) ∧ (s.rx.state ≠ .done ∨ s.rx.res ≠ .ok))) ∧
    (rspSt r = 3 ↔
      (∃ n, i = .rxStart n ∧ s.rx.state = .idle ∧ s.config.maxResp < n.toNat) ∨
      (∃ k, i = .rxRdword k ∧ s.rx.state = .done ∧ s.rx.res = .ok ∧ s.rx.expect ≤ k)) ∧
    (rspSt r = 4 ↔ i = .rxResult ∧ s.rx.state = .done ∧ s.rx.res = .checksum) ∧
    (rspSt r = 5 ↔ i = .rxResult ∧ s.rx.state = .done ∧ s.rx.res = .length) ∧
    rspSt r ≠ 1 ∧ rspSt r ≤ 5 ∧ r.extractLsb' 24 4 = 0 ∧
    (rspSt r = 2 ∨ rspSt r = 3 ∨ rspSt r = 5 → rspX r = 0 ∧ rspV r = 0) ∧
    (rspSt r = 4 → rspX r = s.rx.cidx ∧ rspV r = 0)

/-- R197: "the state after the command equals the state before it": an operation answered with any status but `OK` has
changed no register, and nothing else but that the response was given. -/
def Obligations.ErrorsChangeNoRegister : Prop :=
  ∀ (i : Instr) (s t : State) (r : Word32), exec i s = .next t → t.ports.responses = s.ports.responses ++ [r] →
    rspSt r ≠ 0 → t = s.giveResponse r

/-- R57: reads have no side effect and may be repeated with the same response. -/
def Obligations.ReadsAreIdempotent : Prop :=
  ∀ (i : Instr) (s t : State), IsRead i → exec i s = .next t →
    ∃ r, t = s.giveResponse r ∧ exec i t = .next (t.giveResponse r)

/-- R151, R36: no word of the buffer shows in anything the block gives out, and none gets into another register, except by
RX.RDWORD after a frame ended `RES_OK`: with any other content of the buffer the same operation gives out the same and
leaves every register but the buffer the same. -/
def Obligations.PartialResultsAreNeverSurfaced : Prop :=
  ∀ (i : Instr) (s t t' : State) (m : Memory),
    (∀ k, i ≠ .rxRdword k) ∨ s.rx.state ≠ .done ∨ s.rx.res ≠ .ok →
    exec i s = .next t → exec i (withBuffer s m) = .next t' →
    t'.ports = t.ports ∧ t'.tx = t.tx ∧ { t'.rx with buf := t.rx.buf } = t.rx ∧ t'.config = t.config

/-- R43, R23, R25, R26, R32: the registers without a reset value cannot be observed before they are written: from an idle
block satisfying the invariant, whatever they hold, every sequence of operations gives out the same and leaves the same
control state. So nothing depends on the values that log entry 4 chose. -/
def Obligations.UnspecifiedRegistersAreUnobservable : Prop :=
  ∀ (is : List Instr) (s : State) (opcode word : Word) (crc h l : Byte), s.Inv → s.Quiescent →
    ∃ t t', runInstrs is s = .next t ∧ runInstrs is (withUnspecified s opcode word crc h l) = .next t' ∧
      t'.ports = t.ports ∧ t'.tx.state = t.tx.state ∧ t'.tx.rem = t.tx.rem ∧
      { t'.rx with hi := t.rx.hi, lo := t.rx.lo } = t.rx

/-- R27, R37 "hold after reset", for every `MAX_RESP` from 1 to 255 and for the reference value. -/
def Obligations.InvariantHoldsAtReset : Prop :=
  State.reset.Inv ∧ State.reset.Quiescent ∧
  (∀ c : Config, c.wf → { State.reset with config := c }.Inv) ∧
  (∀ s : State, s.config.wf → (resetBlock s).Inv)

/-- R27, R37: the invariants "hold ... after every step", from every state that satisfies them. -/
def Obligations.EveryStepKeepsTheInvariant : Prop :=
  ∀ s t : State, s.Inv → step s = .next t → t.Inv

/-- From every state that satisfies the invariant every operation completes, and the block never stops however many
steps are taken: the model's faults (log entries 5 and 6) are never raised. D3: "a total step function". -/
def Obligations.NothingStopsWhileTheInvariantHolds : Prop :=
  (∀ (i : Instr) (s : State), s.Inv → ∃ t, exec i s = .next t ∧ t.Inv) ∧ (∀ s : State, s.Inv → s.Safe)
end

