-- ==== Sys2Proof/Laws/State.lean ====
section
/-! SUPPORT. Laws/State.lean: one lemma per field per update of the state, so that no proof unfolds a record update. -/

namespace Sys2Proof.Machine

section
variable (s : State)

@[simp] theorem State.withTx_config (tx : TxRegs) : (s.withTx tx).config = s.config := rfl
@[simp] theorem State.withTx_tx (tx : TxRegs) : (s.withTx tx).tx = tx := rfl
@[simp] theorem State.withTx_rx (tx : TxRegs) : (s.withTx tx).rx = s.rx := rfl
@[simp] theorem State.withTx_ports (tx : TxRegs) : (s.withTx tx).ports = s.ports := rfl

@[simp] theorem State.withRx_config (rx : RxRegs) : (s.withRx rx).config = s.config := rfl
@[simp] theorem State.withRx_tx (rx : RxRegs) : (s.withRx rx).tx = s.tx := rfl
@[simp] theorem State.withRx_rx (rx : RxRegs) : (s.withRx rx).rx = rx := rfl
@[simp] theorem State.withRx_ports (rx : RxRegs) : (s.withRx rx).ports = s.ports := rfl

@[simp] theorem State.giveResponse_config (w : Word32) : (s.giveResponse w).config = s.config := rfl
@[simp] theorem State.giveResponse_tx (w : Word32) : (s.giveResponse w).tx = s.tx := rfl
@[simp] theorem State.giveResponse_rx (w : Word32) : (s.giveResponse w).rx = s.rx := rfl
@[simp] theorem State.giveResponse_cmds (w : Word32) : (s.giveResponse w).ports.cmds = s.ports.cmds := rfl
@[simp] theorem State.giveResponse_rItems (w : Word32) : (s.giveResponse w).ports.rItems = s.ports.rItems := rfl
@[simp] theorem State.giveResponse_turns (w : Word32) : (s.giveResponse w).ports.turns = s.ports.turns := rfl
@[simp] theorem State.giveResponse_responses (w : Word32) :
    (s.giveResponse w).ports.responses = s.ports.responses ++ [w] := rfl
@[simp] theorem State.giveResponse_tItems (w : Word32) : (s.giveResponse w).ports.tItems = s.ports.tItems := rfl

@[simp] theorem State.giveItem_config (it : Item) : (s.giveItem it).config = s.config := rfl
@[simp] theorem State.giveItem_tx (it : Item) : (s.giveItem it).tx = s.tx := rfl
@[simp] theorem State.giveItem_rx (it : Item) : (s.giveItem it).rx = s.rx := rfl
@[simp] theorem State.giveItem_cmds (it : Item) : (s.giveItem it).ports.cmds = s.ports.cmds := rfl
@[simp] theorem State.giveItem_rItems (it : Item) : (s.giveItem it).ports.rItems = s.ports.rItems := rfl
@[simp] theorem State.giveItem_turns (it : Item) : (s.giveItem it).ports.turns = s.ports.turns := rfl
@[simp] theorem State.giveItem_responses (it : Item) : (s.giveItem it).ports.responses = s.ports.responses := rfl
@[simp] theorem State.giveItem_tItems (it : Item) : (s.giveItem it).ports.tItems = s.ports.tItems ++ [it] := rfl

@[simp] theorem State.afterTurn_config : s.afterTurn.config = s.config := rfl
@[simp] theorem State.afterTurn_tx : s.afterTurn.tx = s.tx := rfl
@[simp] theorem State.afterTurn_rx : s.afterTurn.rx = s.rx := rfl
@[simp] theorem State.takeCmd_config : s.takeCmd.config = s.config := rfl
@[simp] theorem State.takeCmd_tx : s.takeCmd.tx = s.tx := rfl
@[simp] theorem State.takeCmd_rx : s.takeCmd.rx = s.rx := rfl
@[simp] theorem State.takeRItem_config : s.takeRItem.config = s.config := rfl
@[simp] theorem State.takeRItem_tx : s.takeRItem.tx = s.tx := rfl
@[simp] theorem State.takeRItem_rx : s.takeRItem.rx = s.rx := rfl

@[simp] theorem resetBlock_config : (resetBlock s).config = s.config := rfl
@[simp] theorem resetBlock_tx : (resetBlock s).tx = TxRegs.reset := rfl
@[simp] theorem resetBlock_rx : (resetBlock s).rx = RxRegs.reset := rfl
@[simp] theorem resetBlock_ports : (resetBlock s).ports = s.ports := rfl

end

section
variable (rx : RxRegs)

@[simp] theorem noteOver_overflow : (noteOver rx).overflow = true := rfl
@[simp] theorem noteOver_state : (noteOver rx).state = rx.state := rfl
@[simp] theorem noteOver_expect : (noteOver rx).expect = rx.expect := rfl
@[simp] theorem noteOver_widx : (noteOver rx).widx = rx.widx := rfl
@[simp] theorem noteOver_phase : (noteOver rx).phase = rx.phase := rfl
@[simp] theorem noteOver_hi : (noteOver rx).hi = rx.hi := rfl
@[simp] theorem noteOver_lo : (noteOver rx).lo = rx.lo := rfl
@[simp] theorem noteOver_cerr : (noteOver rx).cerr = rx.cerr := rfl
@[simp] theorem noteOver_cidx : (noteOver rx).cidx = rx.cidx := rfl
@[simp] theorem noteOver_res : (noteOver rx).res = rx.res := rfl
@[simp] theorem noteOver_buf : (noteOver rx).buf = rx.buf := rfl

@[simp] theorem noteMismatch_cerr : (noteMismatch rx).cerr = true := by
  unfold noteMismatch; split <;> simp_all
@[simp] theorem noteMismatch_cidx : (noteMismatch rx).cidx = if rx.cerr then rx.cidx else rx.widx := by
  unfold noteMismatch; split <;> rfl
@[simp] theorem noteMismatch_state : (noteMismatch rx).state = rx.state := by
  unfold noteMismatch; split <;> rfl
@[simp] theorem noteMismatch_expect : (noteMismatch rx).expect = rx.expect := by
  unfold noteMismatch; split <;> rfl
@[simp] theorem noteMismatch_widx : (noteMismatch rx).widx = rx.widx := by
  unfold noteMismatch; split <;> rfl
@[simp] theorem noteMismatch_phase : (noteMismatch rx).phase = rx.phase := by
  unfold noteMismatch; split <;> rfl
@[simp] theorem noteMismatch_hi : (noteMismatch rx).hi = rx.hi := by
  unfold noteMismatch; split <;> rfl
@[simp] theorem noteMismatch_lo : (noteMismatch rx).lo = rx.lo := by
  unfold noteMismatch; split <;> rfl
@[simp] theorem noteMismatch_overflow : (noteMismatch rx).overflow = rx.overflow := by
  unfold noteMismatch; split <;> rfl
@[simp] theorem noteMismatch_res : (noteMismatch rx).res = rx.res := by
  unfold noteMismatch; split <;> rfl
@[simp] theorem noteMismatch_buf : (noteMismatch rx).buf = rx.buf := by
  unfold noteMismatch; split <;> rfl

@[simp] theorem nextGroup_widx : (nextGroup rx).widx = rx.widx + 1 := rfl
@[simp] theorem nextGroup_phase : (nextGroup rx).phase = .p0 := rfl
@[simp] theorem nextGroup_hi : (nextGroup rx).hi = rx.hi := rfl
@[simp] theorem nextGroup_lo : (nextGroup rx).lo = rx.lo := rfl
@[simp] theorem nextGroup_state : (nextGroup rx).state = rx.state := rfl
@[simp] theorem nextGroup_expect : (nextGroup rx).expect = rx.expect := rfl
@[simp] theorem nextGroup_overflow : (nextGroup rx).overflow = rx.overflow := rfl
@[simp] theorem nextGroup_cerr : (nextGroup rx).cerr = rx.cerr := rfl
@[simp] theorem nextGroup_cidx : (nextGroup rx).cidx = rx.cidx := rfl
@[simp] theorem nextGroup_res : (nextGroup rx).res = rx.res := rfl
@[simp] theorem nextGroup_buf : (nextGroup rx).buf = rx.buf := rfl

end

end Sys2Proof.Machine
end

