-- ==== Sys2Proof/Laws/Memory.lean ====
section
/-! SUPPORT. Laws/Memory.lean: the laws of the RX word buffer: read after write, every write keeps the canonical form,
and what each access can do. -/

namespace Sys2Proof.Machine

@[simp] theorem Memory.find_nil (i : Nat) : Memory.find i [] = none := rfl

@[simp] theorem Memory.wf_nil : Memory.wf [] = true := rfl

theorem State.reset_buf_wf : Memory.wf State.reset.rx.buf = true := rfl

theorem Memory.find_put_same (i : Nat) (w : Word) (m : Memory) : Memory.find i (Memory.put i w m) = some w := by
  induction m with
  | nil => simp [Memory.put, Memory.find]
  | cons c rest ih =>
    obtain ⟨j, v⟩ := c
    unfold Memory.put
    split
    · simp [Memory.find]
    · split
      · simp [Memory.find]
      · next hne => simp [Memory.find, hne, ih]

theorem Memory.find_put_other {i j : Nat} (h : j ≠ i) (w : Word) (m : Memory) :
    Memory.find j (Memory.put i w m) = Memory.find j m := by
  induction m with
  | nil => simp [Memory.put, Memory.find, h]
  | cons c rest ih =>
    obtain ⟨k, v⟩ := c
    unfold Memory.put
    split
    · simp [Memory.find, h]
    · split
      · next heq => subst heq; simp [Memory.find, h]
      · simp [Memory.find, ih]

theorem Memory.find_put (i j : Nat) (w : Word) (m : Memory) :
    Memory.find j (Memory.put i w m) = if j = i then some w else Memory.find j m := by
  split
  · next h => subst h; exact Memory.find_put_same j w m
  · next h => exact Memory.find_put_other h w m

/-- The canonical form, said of the first cell and the rest. -/
theorem Memory.wf_cons {c : Nat × Word} {m : Memory} :
    Memory.wf (c :: m) = true ↔ (∀ e ∈ m.head?, c.1 < e.1) ∧ Memory.wf m = true := by
  cases m with
  | nil => simp [Memory.wf]
  | cons d rest => simp [Memory.wf]

theorem Memory.head_put (i : Nat) (w : Word) (m : Memory) :
    ∀ e ∈ (Memory.put i w m).head?, e.1 = i ∨ ∃ d ∈ m.head?, e.1 = d.1 := by
  cases m with
  | nil => simp [Memory.put]
  | cons d rest =>
    obtain ⟨j, v⟩ := d
    unfold Memory.put
    split
    · simp
    · split <;> simp

theorem Memory.put_wf (i : Nat) (w : Word) (m : Memory) (h : Memory.wf m = true) :
    Memory.wf (Memory.put i w m) = true := by
  induction m with
  | nil => simp [Memory.put, Memory.wf]
  | cons c rest ih =>
    obtain ⟨j, v⟩ := c
    rw [Memory.wf_cons] at h
    unfold Memory.put
    split
    · next hlt => rw [Memory.wf_cons, Memory.wf_cons]; exact ⟨by simpa using hlt, h⟩
    · next hge =>
      split
      · next heq => subst heq; rw [Memory.wf_cons]; exact h
      · next hne =>
        rw [Memory.wf_cons]
        refine ⟨fun e he => ?_, ih h.2⟩
        rcases Memory.head_put i w rest e he with h1 | ⟨d, hd, h2⟩
        · simp only; omega
        · rw [h2]; exact h.1 d hd

/-- The indices of a buffer after a write: the written one or an old one. -/
theorem Memory.mem_put {i : Nat} {w : Word} {m : Memory} {e : Nat × Word} (h : e ∈ Memory.put i w m) :
    e = (i, w) ∨ e ∈ m := by
  induction m with
  | nil => simpa [Memory.put] using h
  | cons c rest ih =>
    obtain ⟨j, v⟩ := c
    unfold Memory.put at h
    split at h
    · simpa using h
    · split at h
      · rcases List.mem_cons.1 h with h | h
        · exact .inl h
        · exact .inr (List.mem_cons_of_mem _ h)
      · rcases List.mem_cons.1 h with h | h
        · exact .inr (h ▸ List.mem_cons_self ..)
        · exact (ih h).imp id (List.mem_cons_of_mem _)

/-- Everything a write can do: inside the buffer it succeeds, and the written entry alone changes. -/
theorem writeEntry_cases (cfg : Config) (m : Memory) (i : Byte) (w : Word) :
    (i.toNat < cfg.maxResp ∧ writeEntry cfg m i w = .ok (Memory.put i.toNat w m)) ∨
    (cfg.maxResp ≤ i.toNat ∧ writeEntry cfg m i w = .error (.bufferAbsent i.toNat)) := by
  unfold writeEntry
  split
  · next h => exact .inl ⟨h, rfl⟩
  · next h => exact .inr ⟨by omega, rfl⟩

/-- Everything a read can do. -/
theorem readEntry_cases (cfg : Config) (m : Memory) (i : Byte) :
    (∃ w, i.toNat < cfg.maxResp ∧ Memory.find i.toNat m = some w ∧ readEntry cfg m i = .ok w) ∨
    (i.toNat < cfg.maxResp ∧ Memory.find i.toNat m = none ∧ readEntry cfg m i = .error (.bufferNoValue i.toNat)) ∨
    (cfg.maxResp ≤ i.toNat ∧ readEntry cfg m i = .error (.bufferAbsent i.toNat)) := by
  unfold readEntry
  split
  · next h =>
    cases hf : Memory.find i.toNat m with
    | some w => exact .inl ⟨w, h, rfl, rfl⟩
    | none => exact .inr (.inl ⟨h, rfl, rfl⟩)
  · next h => exact .inr (.inr ⟨by omega, rfl⟩)

end Sys2Proof.Machine
end

