-- ==== Sys2Proof/Laws/Exec.lean ====
section
/-! SUPPORT. Laws/Exec.lean: for each shared operation, once, everything it can do. -/

namespace Sys2Proof.Machine

/-- A host command always answers. -/
@[simp] theorem respond_eq_next {st : Status} {x : Byte} {v : Word} {s t : State} :
    respond st x v s = .next t ↔ t = s.giveResponse (rspWord st x v) := by
  unfold respond
  constructor
  · intro h; cases h; rfl
  · rintro rfl; rfl

/-- An error is the response and nothing else (R197). -/
@[simp] theorem raise_eq_next {st : Status} {s t : State} :
    raise st s = .next t ↔ t = s.giveResponse (rspWord st 0 0) := respond_eq_next

@[simp] theorem raiseChecksum_eq_next {i : Byte} {s t : State} :
    raiseChecksum i s = .next t ↔ t = s.giveResponse (rspWord .eChecksum i 0) := respond_eq_next

theorem execTxStart_cases {n : Byte} {op : Word} {s t : State} (h : execTxStart n op s = .next t) :
    (s.tx.state = .idle ∧ t = (s.withTx (txStarted n op s.tx)).giveResponse (rspWord .ok 0 0)) ∨
    (s.tx.state ≠ .idle ∧ t = s.giveResponse (rspWord .eState 0 0)) := by
  unfold execTxStart at h
  split at h
  · next hs => exact .inl ⟨hs, respond_eq_next.1 h⟩
  · next hs => exact .inr ⟨hs, raise_eq_next.1 h⟩

theorem execTxArg_cases {w : Word} {s t : State} (h : execTxArg w s = .next t) :
    (s.tx.state = .wait ∧ t = (s.withTx (txArgTaken w s.tx)).giveResponse (rspWord .ok 0 0)) ∨
    (s.tx.state ≠ .wait ∧ t = s.giveResponse (rspWord .eState 0 0)) := by
  unfold execTxArg at h
  split at h
  · next hs => exact .inl ⟨hs, respond_eq_next.1 h⟩
  · next hs => exact .inr ⟨hs, raise_eq_next.1 h⟩

theorem execTxByte_cases {s t : State} (h : execTxByte s = .next t) :
    (∃ it, txOffer s.tx = some it ∧ t = (s.withTx { s.tx with state := txNextState s.tx }).giveItem it) ∨
    (txOffer s.tx = none ∧ t = s) := by
  unfold execTxByte at h
  split at h
  · next ho => cases h; exact .inr ⟨ho, rfl⟩
  · next it ho => cases h; exact .inl ⟨it, ho, rfl⟩

theorem execRxStart_cases {n : Byte} {s t : State} (h : execRxStart n s = .next t) :
    (s.rx.state ≠ .idle ∧ t = s.giveResponse (rspWord .eState 0 0)) ∨
    (s.rx.state = .idle ∧ s.config.maxResp < n.toNat ∧ t = s.giveResponse (rspWord .eRange 0 0)) ∨
    (s.rx.state = .idle ∧ n.toNat ≤ s.config.maxResp ∧
      t = (s.withRx (rxStarted n s.rx)).giveResponse (rspWord .ok 0 0)) := by
  unfold execRxStart at h
  split at h
  · next hs => exact .inl ⟨hs, raise_eq_next.1 h⟩
  · next hs =>
    have hs : s.rx.state = .idle := Decidable.not_not.1 hs
    split at h
    · next hr => exact .inr (.inl ⟨hs, hr, raise_eq_next.1 h⟩)
    · next hr => exact .inr (.inr ⟨hs, by omega, respond_eq_next.1 h⟩)

theorem rxBeyond_iff (rx : RxRegs) : rxBeyond rx = true ↔ rx.overflow = true ∨ rx.widx = rx.expect := by
  simp [rxBeyond]

theorem rxStore_good {b : Byte} {rx : RxRegs} (hb : rxBeyond rx = false) (hp : rx.phase = .p2)
    (hc : crc8Check (mkWord rx.hi rx.lo) b = true) : rxStore b rx = some (rx.widx, mkWord rx.hi rx.lo) := by
  simp [rxStore, hb, hp, hc]

theorem rxStore_bad {b : Byte} {rx : RxRegs} (hb : rxBeyond rx = false) (hp : rx.phase = .p2)
    (hc : crc8Check (mkWord rx.hi rx.lo) b = false) : rxStore b rx = none := by
  simp [rxStore, hb, hp, hc]

/-- Everything RX.BYTE can do to the RX registers. -/
theorem rxTake_cases {cfg : Config} {b : Byte} {rx rx' : RxRegs} (h : rxTake cfg b rx = .ok rx') :
    (rxBeyond rx = true ∧ rx' = noteOver rx) ∨
    (rxBeyond rx = false ∧ rx.phase = .p0 ∧ rx' = { rx with hi := b, phase := .p1 }) ∨
    (rxBeyond rx = false ∧ rx.phase = .p1 ∧ rx' = { rx with lo := b, phase := .p2 }) ∨
    (rxBeyond rx = false ∧ rx.phase = .p2 ∧ crc8Check (mkWord rx.hi rx.lo) b = true ∧ rx.widx.toNat < cfg.maxResp ∧
      rx' = nextGroup { rx with buf := Memory.put rx.widx.toNat (mkWord rx.hi rx.lo) rx.buf }) ∨
    (rxBeyond rx = false ∧ rx.phase = .p2 ∧ crc8Check (mkWord rx.hi rx.lo) b = false ∧
      rx' = nextGroup (noteMismatch rx)) := by
  unfold rxTake at h
  split at h
  · next hb => cases h; exact .inl ⟨hb, rfl⟩
  · next hb =>
    have hb : rxBeyond rx = false := by simpa using hb
    split at h
    · next hp => cases h; exact .inr (.inl ⟨hb, hp, rfl⟩)
    · next hp => cases h; exact .inr (.inr (.inl ⟨hb, hp, rfl⟩))
    · next hp =>
      cases hc : crc8Check (mkWord rx.hi rx.lo) b with
      | true =>
        rw [rxStore_good hb hp hc] at h
        rcases writeEntry_cases cfg rx.buf rx.widx (mkWord rx.hi rx.lo) with ⟨hl, he⟩ | ⟨_, he⟩
        · simp only [he] at h
          cases h
          exact .inr (.inr (.inr (.inl ⟨hb, hp, rfl, hl, rfl⟩)))
        · simp [he] at h
      | false =>
        rw [rxStore_bad hb hp hc] at h
        cases h
        exact .inr (.inr (.inr (.inr ⟨hb, hp, rfl, rfl⟩)))

/-- Inside the buffer RX.BYTE always succeeds. -/
theorem rxTake_ok {cfg : Config} {rx : RxRegs} (b : Byte) (h : rx.widx.toNat < cfg.maxResp ∨ rxBeyond rx = true) :
    ∃ rx', rxTake cfg b rx = .ok rx' := by
  unfold rxTake
  cases hb : rxBeyond rx with
  | true => exact ⟨_, rfl⟩
  | false =>
    have hl : rx.widx.toNat < cfg.maxResp := h.resolve_right (by simp [hb])
    cases hp : rx.phase with
    | p0 => exact ⟨_, rfl⟩
    | p1 => exact ⟨_, rfl⟩
    | p2 =>
      cases hc : crc8Check (mkWord rx.hi rx.lo) b with
      | true =>
        rw [rxStore_good hb hp hc]
        rcases writeEntry_cases cfg rx.buf rx.widx (mkWord rx.hi rx.lo) with ⟨_, he⟩ | ⟨hn, _⟩
        · simp [he]
        · omega
      | false => rw [rxStore_bad hb hp hc]; exact ⟨_, rfl⟩

theorem rxReady_iff (rx : RxRegs) : rxReady rx = true ↔ rx.state = .active := by
  simp [rxReady]

theorem execRxByte_cases {b : Byte} {s t : State} (h : execRxByte b s = .next t) :
    (s.rx.state = .active ∧ ∃ rx, rxTake s.config b s.rx = .ok rx ∧ t = s.withRx rx) ∨
    (s.rx.state ≠ .active ∧ t = s) := by
  unfold execRxByte at h
  split at h
  · next hr =>
    split at h
    · next rx hrx => cases h; exact .inl ⟨(rxReady_iff _).1 hr, rx, hrx, rfl⟩
    · cases h
  · next hr => cases h; exact .inr ⟨fun hc => hr ((rxReady_iff _).2 hc), rfl⟩

theorem execRxEnd_cases {d : Byte} {s t : State} (h : execRxEnd d s = .next t) :
    (s.rx.state = .active ∧ t = s.withRx { s.rx with res := verdict s.rx, state := .done }) ∨
    (s.rx.state ≠ .active ∧ t = s) := by
  unfold execRxEnd at h
  split at h
  · next hr => cases h; exact .inl ⟨(rxReady_iff _).1 hr, rfl⟩
  · next hr => cases h; exact .inr ⟨fun hc => hr ((rxReady_iff _).2 hc), rfl⟩

theorem execRxResult_cases {s t : State} (h : execRxResult s = .next t) :
    (s.rx.state ≠ .done ∧ t = s.giveResponse (rspWord .eState 0 0)) ∨
    (s.rx.state = .done ∧ s.rx.res = .ok ∧ t = s.giveResponse (rspWord .ok 0 (zext16 s.rx.expect))) ∨
    (s.rx.state = .done ∧ s.rx.res = .checksum ∧ t = s.giveResponse (rspWord .eChecksum s.rx.cidx 0)) ∨
    (s.rx.state = .done ∧ s.rx.res = .length ∧ t = s.giveResponse (rspWord .eLength 0 0)) := by
  unfold execRxResult at h
  split at h
  · next hs => exact .inl ⟨hs, raise_eq_next.1 h⟩
  · next hs =>
    have hs : s.rx.state = .done := Decidable.not_not.1 hs
    split at h
    · next hr => exact .inr (.inl ⟨hs, hr, respond_eq_next.1 h⟩)
    · next hr => exact .inr (.inr (.inl ⟨hs, hr, raiseChecksum_eq_next.1 h⟩))
    · next hr => exact .inr (.inr (.inr ⟨hs, hr, raise_eq_next.1 h⟩))

theorem execRxRdword_cases {i : Byte} {s t : State} (h : execRxRdword i s = .next t) :
    ((s.rx.state ≠ .done ∨ s.rx.res ≠ .ok) ∧ t = s.giveResponse (rspWord .eState 0 0)) ∨
    (s.rx.state = .done ∧ s.rx.res = .ok ∧ s.rx.expect ≤ i ∧ t = s.giveResponse (rspWord .eRange 0 0)) ∨
    (s.rx.state = .done ∧ s.rx.res = .ok ∧ i < s.rx.expect ∧ i.toNat < s.config.maxResp ∧
      ∃ w, Memory.find i.toNat s.rx.buf = some w ∧ t = s.giveResponse (rspWord .ok 0 w)) := by
  unfold execRxRdword at h
  split at h
  · next hs => exact .inl ⟨hs, raise_eq_next.1 h⟩
  · next hs =>
    obtain ⟨hd, hk⟩ := not_or.1 hs
    have hd := Decidable.not_not.1 hd
    have hk := Decidable.not_not.1 hk
    split at h
    · next hr => exact .inr (.inl ⟨hd, hk, hr, raise_eq_next.1 h⟩)
    · next hr =>
      refine .inr (.inr ⟨hd, hk, BitVec.not_le.1 hr, ?_⟩)
      rcases readEntry_cases s.config s.rx.buf i with ⟨w, hl, hf, he⟩ | ⟨_, _, he⟩ | ⟨_, he⟩
      · rw [he] at h; exact ⟨hl, w, hf, respond_eq_next.1 h⟩
      · rw [he] at h; cases h
      · rw [he] at h; cases h

/-- One operation after another. -/
@[simp] theorem runInstrs_nil (s : State) : runInstrs [] s = .next s := rfl

theorem runInstrs_cons {i : Instr} {is : List Instr} {s t : State} (h : exec i s = .next t) :
    runInstrs (i :: is) s = runInstrs is t := by
  simp [runInstrs, h]

theorem runInstrs_cons_next {i : Instr} {is : List Instr} {s u : State} :
    runInstrs (i :: is) s = .next u ↔ ∃ t, exec i s = .next t ∧ runInstrs is t = .next u := by
  constructor
  · intro h
    unfold runInstrs at h
    split at h
    · next t ht => exact ⟨t, ht, h⟩
    · cases h
    · cases h
  · rintro ⟨t, ht, hu⟩
    rw [runInstrs_cons ht, hu]

theorem runInstrs_append {is js : List Instr} {s t : State} (h : runInstrs is s = .next t) :
    runInstrs (is ++ js) s = runInstrs js t := by
  induction is generalizing s with
  | nil => cases h; rfl
  | cons i is ih =>
    obtain ⟨u, hu, hr⟩ := runInstrs_cons_next.1 h
    rw [List.cons_append, runInstrs_cons hu, ih hr]

/-- What the verdict `RES_OK` says (R158). -/
theorem verdict_ok {rx : RxRegs} (h : verdict rx = .ok) :
    rx.overflow = false ∧ rx.widx = rx.expect ∧ rx.phase = .p0 ∧ rx.cerr = false := by
  unfold verdict at h
  split at h
  · cases h
  · next hl =>
    split at h
    · cases h
    · next hc =>
      simp [lengthOk] at hl
      exact ⟨hl.1.1, hl.1.2, hl.2, by simpa using hc⟩

/-- What RX.BYTE leaves alone, and that the flags are sticky (R33, R34). -/
theorem rxTake_keeps {cfg : Config} {b : Byte} {rx rx' : RxRegs} (e : rxTake cfg b rx = .ok rx') :
    rx'.state = rx.state ∧ rx'.expect = rx.expect ∧ rx'.res = rx.res ∧
      (rx.overflow = true → rx'.overflow = true) ∧
      (rx.cerr = true → rx'.cerr = true ∧ rx'.cidx = rx.cidx) := by
  rcases rxTake_cases e with ⟨_, e⟩ | ⟨_, _, e⟩ | ⟨_, _, e⟩ | ⟨_, _, _, _, e⟩ | ⟨_, _, _, e⟩ <;>
    rw [e] <;> simp +contextual

/-- Everything an operation can do to the TX registers (R123 to R128). -/
theorem exec_tx_cases {i : Instr} {s t : State} (h : exec i s = .next t) :
    t.tx = s.tx ∨
    (∃ n op, i = .txStart n op ∧ s.tx.state = .idle ∧ t.tx = txStarted n op s.tx) ∨
    (∃ w, i = .txArg w ∧ s.tx.state = .wait ∧ t.tx = txArgTaken w s.tx) ∨
    (i = .txAbort ∧ t.tx = { s.tx with state := .idle, rem := 0 }) ∨
    (i = .txByte ∧ (txOffer s.tx).isSome ∧ t.tx = { s.tx with state := txNextState s.tx }) := by
  cases i with
  | crcGen w => cases h; exact .inl rfl
  | crcChk c w => cases h; exact .inl rfl
  | txStart n op =>
    rcases execTxStart_cases h with ⟨a, rfl⟩ | ⟨a, rfl⟩
    · exact .inr (.inl ⟨n, op, rfl, a, rfl⟩)
    · exact .inl rfl
  | txArg w =>
    rcases execTxArg_cases h with ⟨a, rfl⟩ | ⟨a, rfl⟩
    · exact .inr (.inr (.inl ⟨w, rfl, a, rfl⟩))
    · exact .inl rfl
  | txAbort => cases h; exact .inr (.inr (.inr (.inl ⟨rfl, rfl⟩)))
  | txStat => cases h; exact .inl rfl
  | rxStart n =>
    rcases execRxStart_cases h with ⟨a, rfl⟩ | ⟨a, _, rfl⟩ | ⟨a, _, rfl⟩ <;> exact .inl rfl
  | rxResult =>
    rcases execRxResult_cases h with ⟨a, rfl⟩ | ⟨a, _, rfl⟩ | ⟨a, _, rfl⟩ | ⟨a, _, rfl⟩ <;> exact .inl rfl
  | rxRdword k =>
    rcases execRxRdword_cases h with ⟨a, rfl⟩ | ⟨a, _, _, rfl⟩ | ⟨a, _, _, _, w, _, rfl⟩ <;> exact .inl rfl
  | rxClear => cases h; exact .inl rfl
  | rxStat => cases h; exact .inl rfl
  | txByte =>
    rcases execTxByte_cases h with ⟨it, a, rfl⟩ | ⟨a, rfl⟩
    · exact .inr (.inr (.inr (.inr ⟨rfl, by simp [a], rfl⟩)))
    · exact .inl rfl
  | rxByte b =>
    rcases execRxByte_cases h with ⟨a, rx, _, rfl⟩ | ⟨a, rfl⟩ <;> exact .inl rfl
  | rxEnd d =>
    rcases execRxEnd_cases (d := d) h with ⟨a, rfl⟩ | ⟨a, rfl⟩ <;> exact .inl rfl

/-- Everything an operation can do to the RX registers (R154 to R161). -/
theorem exec_rx_cases {i : Instr} {s t : State} (h : exec i s = .next t) :
    t.rx = s.rx ∨
    (∃ n, i = .rxStart n ∧ s.rx.state = .idle ∧ n.toNat ≤ s.config.maxResp ∧ t.rx = rxStarted n s.rx) ∨
    (i = .rxClear ∧ t.rx = { clearFrame s.rx with state := .idle }) ∨
    (∃ b, i = .rxByte b ∧ s.rx.state = .active ∧ rxTake s.config b s.rx = .ok t.rx) ∨
    (∃ d, i = .rxEnd d ∧ s.rx.state = .active ∧ t.rx = { s.rx with res := verdict s.rx, state := .done }) := by
  cases i with
  | crcGen w => cases h; exact .inl rfl
  | crcChk c w => cases h; exact .inl rfl
  | txStart n op =>
    rcases execTxStart_cases h with ⟨a, rfl⟩ | ⟨a, rfl⟩ <;> exact .inl rfl
  | txArg w =>
    rcases execTxArg_cases h with ⟨a, rfl⟩ | ⟨a, rfl⟩ <;> exact .inl rfl
  | txAbort => cases h; exact .inl rfl
  | txStat => cases h; exact .inl rfl
  | rxStart n =>
    rcases execRxStart_cases h with ⟨a, rfl⟩ | ⟨a, _, rfl⟩ | ⟨a, c, rfl⟩
    · exact .inl rfl
    · exact .inl rfl
    · exact .inr (.inl ⟨n, rfl, a, c, rfl⟩)
  | rxResult =>
    rcases execRxResult_cases h with ⟨a, rfl⟩ | ⟨a, _, rfl⟩ | ⟨a, _, rfl⟩ | ⟨a, _, rfl⟩ <;> exact .inl rfl
  | rxRdword k =>
    rcases execRxRdword_cases h with ⟨a, rfl⟩ | ⟨a, _, _, rfl⟩ | ⟨a, _, _, _, w, _, rfl⟩ <;> exact .inl rfl
  | rxClear => cases h; exact .inr (.inr (.inl ⟨rfl, rfl⟩))
  | rxStat => cases h; exact .inl rfl
  | txByte =>
    rcases execTxByte_cases h with ⟨it, a, rfl⟩ | ⟨a, rfl⟩ <;> exact .inl rfl
  | rxByte b =>
    rcases execRxByte_cases h with ⟨a, rx, hr, rfl⟩ | ⟨a, rfl⟩
    · exact .inr (.inr (.inr (.inl ⟨b, rfl, a, hr⟩)))
    · exact .inl rfl
  | rxEnd d =>
    rcases execRxEnd_cases (d := d) h with ⟨a, rfl⟩ | ⟨a, rfl⟩
    · exact .inr (.inr (.inr (.inr ⟨d, rfl, a, rfl⟩)))
    · exact .inl rfl

/-- No operation writes the parameters (R7). -/
theorem exec_config {i : Instr} {s t : State} (h : exec i s = .next t) : t.config = s.config := by
  cases i with
  | crcGen w => cases h; rfl
  | crcChk c w => cases h; rfl
  | txStart n op =>
    rcases execTxStart_cases h with ⟨a, rfl⟩ | ⟨a, rfl⟩ <;> rfl
  | txArg w =>
    rcases execTxArg_cases h with ⟨a, rfl⟩ | ⟨a, rfl⟩ <;> rfl
  | txAbort => cases h; rfl
  | txStat => cases h; rfl
  | rxStart n =>
    rcases execRxStart_cases h with ⟨a, rfl⟩ | ⟨a, _, rfl⟩ | ⟨a, c, rfl⟩ <;> rfl
  | rxResult =>
    rcases execRxResult_cases h with ⟨a, rfl⟩ | ⟨a, _, rfl⟩ | ⟨a, _, rfl⟩ | ⟨a, _, rfl⟩ <;> rfl
  | rxRdword k =>
    rcases execRxRdword_cases h with ⟨a, rfl⟩ | ⟨a, _, _, rfl⟩ | ⟨a, _, _, _, w, _, rfl⟩ <;> rfl
  | rxClear => cases h; rfl
  | rxStat => cases h; rfl
  | txByte =>
    rcases execTxByte_cases h with ⟨it, a, rfl⟩ | ⟨a, rfl⟩ <;> rfl
  | rxByte b =>
    rcases execRxByte_cases h with ⟨a, rx, hr, rfl⟩ | ⟨a, rfl⟩ <;> rfl
  | rxEnd d =>
    rcases execRxEnd_cases (d := d) h with ⟨a, rfl⟩ | ⟨a, rfl⟩ <;> rfl

/-- No operation touches what is still to be presented. -/
theorem exec_waiting {i : Instr} {s t : State} (h : exec i s = .next t) :
    t.ports.cmds = s.ports.cmds ∧ t.ports.rItems = s.ports.rItems ∧ t.ports.turns = s.ports.turns := by
  cases i with
  | crcGen w => cases h; exact ⟨rfl, rfl, rfl⟩
  | crcChk c w => cases h; exact ⟨rfl, rfl, rfl⟩
  | txStart n op =>
    rcases execTxStart_cases h with ⟨a, rfl⟩ | ⟨a, rfl⟩ <;> exact ⟨rfl, rfl, rfl⟩
  | txArg w =>
    rcases execTxArg_cases h with ⟨a, rfl⟩ | ⟨a, rfl⟩ <;> exact ⟨rfl, rfl, rfl⟩
  | txAbort => cases h; exact ⟨rfl, rfl, rfl⟩
  | txStat => cases h; exact ⟨rfl, rfl, rfl⟩
  | rxStart n =>
    rcases execRxStart_cases h with ⟨a, rfl⟩ | ⟨a, _, rfl⟩ | ⟨a, c, rfl⟩ <;> exact ⟨rfl, rfl, rfl⟩
  | rxResult =>
    rcases execRxResult_cases h with ⟨a, rfl⟩ | ⟨a, _, rfl⟩ | ⟨a, _, rfl⟩ | ⟨a, _, rfl⟩ <;> exact ⟨rfl, rfl, rfl⟩
  | rxRdword k =>
    rcases execRxRdword_cases h with ⟨a, rfl⟩ | ⟨a, _, _, rfl⟩ | ⟨a, _, _, _, w, _, rfl⟩ <;> exact ⟨rfl, rfl, rfl⟩
  | rxClear => cases h; exact ⟨rfl, rfl, rfl⟩
  | rxStat => cases h; exact ⟨rfl, rfl, rfl⟩
  | txByte =>
    rcases execTxByte_cases h with ⟨it, a, rfl⟩ | ⟨a, rfl⟩ <;> exact ⟨rfl, rfl, rfl⟩
  | rxByte b =>
    rcases execRxByte_cases h with ⟨a, rx, hr, rfl⟩ | ⟨a, rfl⟩ <;> exact ⟨rfl, rfl, rfl⟩
  | rxEnd d =>
    rcases execRxEnd_cases (d := d) h with ⟨a, rfl⟩ | ⟨a, rfl⟩ <;> exact ⟨rfl, rfl, rfl⟩

/-- Choosing a step writes no register. -/
theorem fetch_registers (s : State) :
    (fetch s).2.config = s.config ∧ (fetch s).2.tx = s.tx ∧ (fetch s).2.rx = s.rx := by
  unfold fetch
  split
  · simp
  · simp
  · split <;> simp
  · split <;> simp
  · split
    · simp
    · split <;> simp

end Sys2Proof.Machine
end

