-- ==== Sys2Proof/Laws/PerInstr.lean ====
section
/-! SUPPORT. Laws/PerInstr.lean: what is proved of every operation as syntax, one lemma per constructor of Instr. -/

namespace Sys2Proof.Laws

/-- The fields of a word built by `cmdWord` are the parts it was built from (R74). -/
theorem fields_cmdWord (op : BitVec 4) (a : Byte) (d : Word) :
    CmdFields.ofWord (cmdWord op a d) = { op := op, rsv := 0, a := a, d := d } := by
  have hop : (cmdWord op a d).extractLsb' 28 4 = op := by
    apply BitVec.eq_of_getLsbD_eq
    intro i hi
    simp only [cmdWord, BitVec.getLsbD_extractLsb', BitVec.getLsbD_append]
    simp [hi, show ¬ 28 + i < 16 by omega, show ¬ 28 + i - 16 < 8 by omega, show ¬ 28 + i - 16 - 8 < 4 by omega,
      show 28 + i - 16 - 8 - 4 = i by omega]
  have hrsv : (cmdWord op a d).extractLsb' 24 4 = 0 := by
    apply BitVec.eq_of_getLsbD_eq
    intro i hi
    simp only [cmdWord, BitVec.getLsbD_extractLsb', BitVec.getLsbD_append]
    simp [hi, show ¬ 24 + i < 16 by omega, show ¬ 24 + i - 16 < 8 by omega, show 24 + i - 16 - 8 < 4 by omega]
  have ha : (cmdWord op a d).extractLsb' 16 8 = a := by
    apply BitVec.eq_of_getLsbD_eq
    intro i hi
    simp only [cmdWord, BitVec.getLsbD_extractLsb', BitVec.getLsbD_append]
    simp [hi, show ¬ 16 + i < 16 by omega, show 16 + i - 16 = i by omega]
  have hd : (cmdWord op a d).extractLsb' 0 16 = d := by
    apply BitVec.eq_of_getLsbD_eq
    intro i hi
    simp only [cmdWord, BitVec.getLsbD_extractLsb', BitVec.getLsbD_append]
    simp [hi]
  simp only [CmdFields.ofWord, hop, hrsv, ha, hd]

end Sys2Proof.Laws

namespace Sys2Proof.Laws.EncodesWellFormed

/-- The command word an operation is encoded in obeys its format: `rsv` and every unused field are 0 (R75, R79). -/
def Statement (i : Instr) : Prop := ∀ c, encode i = .host c → (CmdFields.ofWord c).wellFormed = true

theorem crcGen (w : Word) : Statement (.crcGen w) := by rintro _ ⟨rfl⟩; rw [fields_cmdWord]; rfl
theorem crcChk (c : Byte) (w : Word) : Statement (.crcChk c w) := by rintro _ ⟨rfl⟩; rw [fields_cmdWord]; rfl
theorem txStart (n : Byte) (op : Word) : Statement (.txStart n op) := by rintro _ ⟨rfl⟩; rw [fields_cmdWord]; rfl
theorem txArg (w : Word) : Statement (.txArg w) := by rintro _ ⟨rfl⟩; rw [fields_cmdWord]; rfl
theorem txAbort : Statement .txAbort := by rintro _ ⟨rfl⟩; rw [fields_cmdWord]; rfl
theorem txStat : Statement .txStat := by rintro _ ⟨rfl⟩; rw [fields_cmdWord]; rfl
theorem rxStart (n : Byte) : Statement (.rxStart n) := by rintro _ ⟨rfl⟩; rw [fields_cmdWord]; rfl
theorem rxResult : Statement .rxResult := by rintro _ ⟨rfl⟩; rw [fields_cmdWord]; rfl
theorem rxRdword (i : Byte) : Statement (.rxRdword i) := by rintro _ ⟨rfl⟩; rw [fields_cmdWord]; rfl
theorem rxClear : Statement .rxClear := by rintro _ ⟨rfl⟩; rw [fields_cmdWord]; rfl
theorem rxStat : Statement .rxStat := by rintro _ ⟨rfl⟩; rw [fields_cmdWord]; rfl
theorem txByte : Statement .txByte := by intro c h; cases h
theorem rxByte (b : Byte) : Statement (.rxByte b) := by intro c h; cases h
theorem rxEnd (d : Byte) : Statement (.rxEnd d) := by intro c h; cases h

end Sys2Proof.Laws.EncodesWellFormed
end

