-- ==== Sys2Proof/Tests/Slice0.lean ====
section
/-! SUPPORT. Tests/Slice0.lean: small tests whose expected results are those of spec/95_test_vectors.md (each names its
vector) or of the rule named, and for every statement with hypotheses a witness that meets them. -/

namespace Sys2Proof.Tests

open Sys2Proof.Machine Sys2Proof.Claims

/-! ## Helpers -/

/-- Reset but for the TX registers. -/
def atTx (st : TxState) (rem : Byte) : State :=
  { State.reset with tx := { state := st, opcode := 0x1234, rem := rem, word := 0xBEEF, crc := 0x92 } }

/-- Reset but for the RX registers. -/
def atRx (rx : RxRegs) : State := { State.reset with rx := rx }

/-- RX registers in `R_ACTIVE` with nothing received. -/
def rxFresh (expect : Byte) : RxRegs := { RxRegs.reset with state := .active, expect := expect }

/-- V11 one byte before its end: the group `BE EF` is held. -/
def rxHeld : RxRegs := { rxFresh 1 with phase := .p2, hi := 0xBE, lo := 0xEF }

/-- V11 ended: one word, verdict `RES_OK`. -/
def rxDoneOk : RxRegs := { rxFresh 1 with state := .done, widx := 1, hi := 0xBE, lo := 0xEF, buf := [(0, 0xBEEF)] }

/-- V12 ended: two groups, group 1 failed. -/
def rxDoneBad : RxRegs :=
  { rxFresh 2 with state := .done, widx := 2, hi := 0x56, lo := 0x78, cerr := true, cidx := 1, res := .checksum,
                   buf := [(0, 0x1234)] }

/-- V14 ended: five bytes of six. -/
def rxDoneShort : RxRegs :=
  { rxFresh 2 with state := .done, widx := 1, phase := .p2, hi := 0x56, lo := 0x78, res := .length,
                   buf := [(0, 0x1234)] }

/-- The state with a turn, and with command words and R items waiting. -/
def waiting (s : State) (turns : List Turn) (cmds : List Word32) (rItems : List Item) : State :=
  { s with ports := { s.ports with turns := turns, cmds := cmds, rItems := rItems } }

/-- Does an outcome give a next state of which `p` holds? -/
def leads (r : Result) (p : State → Bool) : Bool :=
  match r with
  | .next t => p t
  | .fault _ => false
  | .refused _ => false

theorem next_of_leads {r : Result} {p : State → Bool} (h : leads r p = true) : ∃ t, r = .next t ∧ p t = true := by
  cases r with
  | next t => exact ⟨t, rfl, h⟩
  | fault f => cases h
  | refused f => cases h

theorem next_of_goes {r : Result} (h : leads r (fun _ => true) = true) : ∃ t, r = .next t :=
  (next_of_leads h).imp (fun _ ht => ht.1)

/-- Is the last response given `w`? -/
def answered (w : Word32) (t : State) : Bool := t.ports.responses.getLast? == some w

/-- The reference MAX_RESP with all 32 words received (V25's largest frame). -/
def rxLargest : RxRegs :=
  { rxFresh 32 with state := .done, widx := 32, buf := (List.range 32).map (fun i => (i, 0xBEEF)) }

/-! ## Well-formedness: an ill-formed word for each check (R80; V8) -/

theorem test_wf_legal : (CmdFields.ofWord 0x2092BEEF).wellFormed = true := by decide
theorem test_wf_op_reserved : (CmdFields.ofWord 0x30000000).wellFormed = false := by decide
theorem test_wf_op_zero : (CmdFields.ofWord 0x00000000).wellFormed = false := by decide
theorem test_wf_op_high : (CmdFields.ofWord 0xD0000000).wellFormed = false := by decide
theorem test_wf_rsv : (CmdFields.ofWord 0x41001234).wellFormed = false := by decide
theorem test_wf_w_has_a : (CmdFields.ofWord 0x1001BEEF).wellFormed = false := by decide
theorem test_wf_n_has_a : (CmdFields.ofWord 0x70010000).wellFormed = false := by decide
theorem test_wf_n_has_d : (CmdFields.ofWord 0x60000001).wellFormed = false := by decide
theorem test_wf_a_has_d : (CmdFields.ofWord 0x80010001).wellFormed = false := by decide

/-! ## Decoding: the words of R78 and R82 written out bit by bit (V7; V8 for the refusals) -/

theorem test_decode_crcGen : decode (.host 0b0001_0000_00000000_1011111011101111) = .ok (.crcGen 0xBEEF) := by rfl
theorem test_decode_crcChk : decode (.host 0b0010_0000_10010010_1011111011101111) = .ok (.crcChk 0x92 0xBEEF) := by rfl
theorem test_decode_txStart : decode (.host 0b0100_0000_00000001_0001001000110100) = .ok (.txStart 1 0x1234) := by rfl
theorem test_decode_txArg : decode (.host 0b0101_0000_00000000_1011111011101111) = .ok (.txArg 0xBEEF) := by rfl
theorem test_decode_txAbort : decode (.host 0b0110_0000_00000000_0000000000000000) = .ok .txAbort := by rfl
theorem test_decode_txStat : decode (.host 0b0111_0000_00000000_0000000000000000) = .ok .txStat := by rfl
theorem test_decode_rxStart : decode (.host 0b1000_0000_00000010_0000000000000000) = .ok (.rxStart 2) := by rfl
theorem test_decode_rxResult : decode (.host 0b1001_0000_00000000_0000000000000000) = .ok .rxResult := by rfl
theorem test_decode_rxRdword : decode (.host 0b1010_0000_00000001_0000000000000000) = .ok (.rxRdword 1) := by rfl
theorem test_decode_rxClear : decode (.host 0b1011_0000_00000000_0000000000000000) = .ok .rxClear := by rfl
theorem test_decode_rxStat : decode (.host 0b1100_0000_00000000_0000000000000000) = .ok .rxStat := by rfl
theorem test_decode_rxByte : decode (.rItem 0b0_00010010) = .ok (.rxByte 0x12) := by rfl
theorem test_decode_rxEnd : decode (.rItem 0b1_00000000) = .ok (.rxEnd 0x00) := by rfl
/-- R81: at the T port there is nothing to decode. -/
theorem test_decode_txByte : decode .tReady = .ok .txByte := by rfl

theorem test_refuse_rsv : decode (.host 0x2F92BEEF) = .error (.reservedField 0xF) := by rfl
theorem test_refuse_op : decode (.host 0x30000000) = .error (.reservedOp 0x3) := by rfl
theorem test_refuse_operand : decode (.host 0xC0008000) = .error (.operandNotZero 0xC) := by rfl

/-- The host's question of a table row: 32 bits are a command, 9 bits or two whole bytes an R item (log entry 8). -/
theorem test_table_word :
    decodeTableWord 32 0x5000BEEF = some (.txArg 0xBEEF) ∧ decodeTableWord 9 0x0BE = some (.rxByte 0xBE) ∧
    decodeTableWord 16 0x100 = some (.rxEnd 0) ∧ decodeTableWord 32 0 = none := by decide

/-- The step after `withFetchWord` runs that word: CRC.GEN of V5, and RX.END on an empty frame (R158). -/
theorem test_fetch_word :
    leads (step (State.reset.withFetchWord 32 0x1000BEEF)) (answered 0x00000092) = true ∧
    leads (step (State.reset.withFetchWord 9 0x100)) (fun t => t.rx.state == .done) = true := by decide +kernel

/-! ## One operation each -/

/-- V5. -/
theorem test_crcGen : leads (exec (.crcGen 0xBEEF) State.reset) (answered 0x00000092) = true := by decide +kernel
/-- V5. -/
theorem test_crcChk :
    leads (exec (.crcChk 0x92 0xBEEF) State.reset) (answered 0x00000001) = true ∧
    leads (exec (.crcChk 0x93 0xBEEF) State.reset) (answered 0x00000000) = true := by decide +kernel
/-- P1 line 1. -/
theorem test_txStart : leads (exec (.txStart 1 0x1234) State.reset)
    (fun t => answered 0 t && t.tx.state == .oph && t.tx.opcode == 0x1234 && t.tx.rem == 1) = true := by decide
/-- P4 line 3. -/
theorem test_txStart_busy : leads (exec (.txStart 0 0) (atTx .opl 2)) (answered 0x20000000) = true := by decide
/-- P1 line 5. -/
theorem test_txArg : leads (exec (.txArg 0xBEEF) { atTx .wait 1 with tx := { (atTx .wait 1).tx with crc := 0 } })
    (fun t => answered 0 t && t.tx.state == .ah && t.tx.crc == 0x92 && t.tx.rem == 0) = true := by decide +kernel
/-- P4 line 4. -/
theorem test_txArg_early : leads (exec (.txArg 0xBEEF) (atTx .opl 2)) (answered 0x20000000) = true := by decide
/-- P4 line 9. -/
theorem test_txAbort : leads (exec .txAbort (atTx .ac 1))
    (fun t => answered 0 t && t.tx.state == .idle && t.tx.rem == 0 && t.ports.tItems == []) = true := by decide
/-- P4 line 8, P1 line 4. -/
theorem test_txStat :
    leads (exec .txStat (atTx .ac 1)) (answered 0x00010006) = true ∧
    leads (exec .txStat (atTx .wait 1)) (answered 0x00010003) = true := by decide
/-- P1 line 3: item 0x034, then `T_WAIT`. -/
theorem test_txByte : leads (exec .txByte (atTx .opl 1))
    (fun t => t.ports.tItems == [0x034] && t.tx.state == .wait) = true := by decide
/-- P1 line 9: item 0x192, then `T_IDLE`. -/
theorem test_txByte_last : leads (exec .txByte (atTx .ac 0))
    (fun t => t.ports.tItems == [0x192] && t.tx.state == .idle) = true := by decide
/-- V25: 32 is accepted, 33 is not. -/
theorem test_rxStart :
    leads (exec (.rxStart 32) State.reset) (fun t => answered 0 t && t.rx.state == .active) = true ∧
    leads (exec (.rxStart 33) State.reset) (answered 0x30000000) = true := by decide
/-- P3 line 9. -/
theorem test_rxStart_busy : leads (exec (.rxStart 1) (atRx rxDoneBad)) (answered 0x20000000) = true := by decide
/-- V11's last byte, and the same byte altered (V12's kind). -/
theorem test_rxByte :
    leads (exec (.rxByte 0x92) (atRx rxHeld)) (fun t => t.rx.widx == 1 && t.rx.buf == [(0, 0xBEEF)]) = true ∧
    leads (exec (.rxByte 0x93) (atRx rxHeld)) (fun t => t.rx.cerr && t.rx.cidx == 0 && t.rx.buf == []) = true := by decide +kernel
/-- V19: a byte beyond an empty frame. -/
theorem test_rxByte_over : leads (exec (.rxByte 0x55) (atRx (rxFresh 0))) (fun t => t.rx.overflow) = true := by decide
/-- V20, V17: the length is judged first. -/
theorem test_rxEnd :
    leads (exec (.rxEnd 0) (atRx (rxFresh 1))) (fun t => t.rx.state == .done && t.rx.res == .length) = true ∧
    leads (exec (.rxEnd 0) (atRx { rxFresh 2 with widx := 1, phase := .p1, cerr := true })) (fun t => t.rx.res == .length)
      = true := by decide
/-- V11, V12. -/
theorem test_rxResult :
    leads (exec .rxResult (atRx rxDoneOk)) (answered 0x00000001) = true ∧
    leads (exec .rxResult (atRx rxDoneBad)) (answered 0x40010000) = true := by decide
/-- P2 line 7, V14. -/
theorem test_rxResult_other :
    leads (exec .rxResult (atRx rxHeld)) (answered 0x20000000) = true ∧
    leads (exec .rxResult (atRx rxDoneShort)) (answered 0x50000000) = true := by decide
/-- V11. -/
theorem test_rxRdword :
    leads (exec (.rxRdword 0) (atRx rxDoneOk)) (answered 0x0000BEEF) = true ∧
    leads (exec (.rxRdword 1) (atRx rxDoneOk)) (answered 0x30000000) = true := by decide
/-- P3 line 7: word 0 passed its CRC and is still not surfaced. -/
theorem test_rxRdword_refused : leads (exec (.rxRdword 0) (atRx rxDoneBad)) (answered 0x20000000) = true := by decide
/-- P2 line 16. -/
theorem test_rxClear : leads (exec .rxClear (atRx rxDoneOk))
    (fun t => answered 0 t && t.rx.state == .idle && t.rx.widx == 0 && t.rx.buf == []) = true := by decide
/-- V12, V14. -/
theorem test_rxStat :
    leads (exec .rxStat (atRx rxDoneBad)) (answered 0x00020262) = true ∧
    leads (exec .rxStat (atRx rxDoneShort)) (answered 0x0001028A) = true := by decide

/-! ## One step each: the ports -/

/-- V8, R80. -/
theorem test_illegal : leads (step (waiting (atTx .oph 1) [.host] [0xFFFFFFFF] []))
    (fun t => answered 0x10000000 t && t.tx == (atTx .oph 1).tx) = true := by decide
/-- R156: outside `R_ACTIVE` the item waits. -/
theorem test_item_waits : leads (step (waiting (atRx rxDoneOk) [.r] [] [0x055]))
    (fun t => t.ports.rItems == [0x055] && t.rx == rxDoneOk) = true := by decide
/-- P7: reset in mid-frame. -/
theorem test_reset : leads (step (waiting (atTx .al 1) [.reset] [0x70000000] []))
    (fun t => t.tx.state == .idle && t.tx.rem == 0 && t.ports.cmds == [0x70000000] && t.ports.responses == []) = true := by
  decide

/-! ## Witnesses: the hypotheses of each statement are met together -/

/-- DecodeAndEncodeAgree, at each port. -/
theorem witness_decode_agree :
    decode (.host 0x1000BEEF) = .ok (.crcGen 0xBEEF) ∧ decode (.rItem 0x1FF) = .ok (.rxEnd 0xFF) ∧
    decode .tReady = .ok .txByte := ⟨rfl, rfl, rfl⟩

/-- DecodeSelectsByMaskAndMatch: a word each row selects, at the highest operands. -/
theorem witness_select :
    (0x1000FFFF : Word32) &&& 0xFFFF0000 = 0x10000000 ∧ (0x20FFFFFF : Word32) &&& 0xFF000000 = 0x20000000 ∧
    (0x40FFFFFF : Word32) &&& 0xFF000000 = 0x40000000 ∧ (0x5000FFFF : Word32) &&& 0xFFFF0000 = 0x50000000 ∧
    (0x80FF0000 : Word32) &&& 0xFF00FFFF = 0x80000000 ∧ (0xA0FF0000 : Word32) &&& 0xFF00FFFF = 0xA0000000 ∧
    (0x0FF : Item) &&& 0x100 = 0x000 ∧ (0x1FF : Item) &&& 0x100 = 0x100 := by decide

/-- IllegalWordsAreRefusedUnchanged. -/
theorem witness_illegal :
    let s := waiting (atTx .wait 1) [.host, .t] [0x1001BEEF, 0x70000000] []
    s.ports.turns = .host :: [.t] ∧ s.ports.cmds = 0x1001BEEF :: [0x70000000] ∧
    (CmdFields.ofWord 0x1001BEEF).wellFormed = false := by decide

/-- StepRunsTheDecodedOperation: each agent. -/
theorem witness_step_host :
    let s := waiting State.reset [.host] [0x70000000] []
    s.ports.turns = .host :: [] ∧ s.ports.cmds = 0x70000000 :: [] ∧ decode (.host 0x70000000) = .ok .txStat :=
  ⟨rfl, rfl, rfl⟩
theorem witness_step_t :
    let s := waiting (atTx .oph 1) [.t] [] []
    s.ports.turns = .t :: [] ∧ Offering s.tx.state := ⟨rfl, .inl rfl⟩
theorem witness_step_r :
    let s := waiting (atRx (rxFresh 1)) [.r] [] [0x0BE]
    s.ports.turns = .r :: [] ∧ s.ports.rItems = 0x0BE :: [] ∧ s.rx.state = .active ∧
    decode (.rItem 0x0BE) = .ok (.rxByte 0xBE) := ⟨rfl, rfl, rfl, rfl⟩

/-- PortsWaitUntouched: each clause. -/
theorem witness_wait :
    ((waiting State.reset [.r] [] [0x0BE]).ports.turns = [.r] ∧ (waiting State.reset [.r] [] [0x0BE]).rx.state ≠ .active) ∧
    ((waiting (atTx .wait 1) [.t] [] []).ports.turns = [.t] ∧ (waiting (atTx .wait 1) [.t] [] []).tx.state = .wait) ∧
    ((waiting State.reset [.host] [] []).ports.turns = [.host] ∧ (waiting State.reset [.host] [] []).ports.cmds = []) ∧
    State.reset.ports.turns = [] := by decide

/-- PortsWaitUntouched: the ready R port with no item offered. -/
theorem witness_wait_no_item :
    let s := waiting (atRx (rxFresh 1)) [.r] [] []
    s.ports.turns = .r :: [] ∧ s.ports.rItems = [] ∧ s.rx.state = .active := ⟨rfl, rfl, rfl⟩

/-- DisabledTransfersChangeNothing: each clause. -/
theorem witness_disabled :
    State.reset.tx.state = .idle ∧ (atTx .wait 1).tx.state = .wait ∧ (atRx rxDoneOk).rx.state ≠ .active := by decide

/-- ResetEdgeResetsAndNothingElse: both clauses. -/
theorem witness_reset_edge :
    ({ rst := true, rxValid := true, txReady := true, cmdValid := true } : Edge).rst = true ∧
    (waiting (atTx .al 1) [.reset] [] []).ports.turns = .reset :: [] := by decide

/-- OneEdgeIsTransfersThenCommand: each clause. -/
theorem witness_edge_order : ({ rst := false, rxValid := true, txReady := true, cmdValid := true } : Edge).rst = false := rfl
theorem witness_edge_arg :
    let s := waiting (atTx .ac 1) [.t, .host] [0x5000BEEF] []
    s.tx.state = .ac ∧ 1 ≤ s.tx.rem ∧ encode (.txArg 0xBEEF) = .host 0x5000BEEF ∧ s.ports.cmds = 0x5000BEEF :: [] ∧
    s.ports.turns = edgeTurns { rst := false, rxValid := false, txReady := true, cmdValid := true } ++ [] := by decide
theorem witness_edge_result :
    let s := waiting (atRx (rxFresh 0)) [.r, .host] [0x90000000] [0x100]
    s.rx.state = .active ∧ encode (.rxEnd 0) = .rItem 0x100 ∧ s.ports.rItems = 0x100 :: [] ∧
    encode .rxResult = .host 0x90000000 ∧ s.ports.cmds = 0x90000000 :: [] ∧
    s.ports.turns = edgeTurns { rst := false, rxValid := true, txReady := false, cmdValid := true } ++ [] := by decide

/-- PresentedOperationsArePerformed: an R transfer right after RX.START meets a ready port. -/
theorem witness_transfers_ready : RTransfersReady [.rxStart 1, .rxByte 0xBE] State.reset := by
  intro pre i post u he hh hp hr
  match pre, he with
  | [], he =>
    obtain ⟨rfl, -⟩ := List.cons.inj he
    exact absurd hh (by decide)
  | [a], he =>
    obtain ⟨rfl, -⟩ := List.cons.inj he
    have h2 : runInstrs [.rxStart 1] State.reset =
        .next ((State.reset.withRx (rxStarted 1 State.reset.rx)).giveResponse (rspWord .ok 0 0)) := rfl
    rw [h2] at hr
    cases hr
    rfl
  | [a, b], he => simp at he
  | a :: b :: c :: rest, he => simp at he

/-- CrcMinimumDistanceIsFour: 1, 3 and 5 bits. -/
theorem witness_flips :
    (1 ≤ flips 0x000001 ∧ flips 0x000001 ≤ 3) ∧ (1 ≤ flips 0x800003 ∧ flips 0x800003 ≤ 3) ∧ flips 0x80000F = 5 := by
  decide

/-- TxStartBeginsAFrame, TxArgSuppliesTheNextWord: each clause. -/
theorem witness_tx_commands :
    State.reset.tx.state = .idle ∧ (atTx .ac 0).tx.state ≠ .idle ∧ (atTx .wait 255).tx.state = .wait ∧
    (atTx .oph 1).tx.state ≠ .wait ∧ ((atTx .wait 1).Inv ∧ (atTx .wait 1).tx.state = .wait) := by decide

/-- TxPortOffersByState, TxByteDeliversTheOffer: each state, with the item it offers. -/
theorem witness_offers :
    ((atTx .idle 0).tx.state = .idle ∧ (atTx .wait 1).tx.state = .wait) ∧
    ((atTx .oph 1).tx.state = .oph ∧ txOffer (atTx .oph 1).tx = some 0x012) ∧
    ((atTx .opl 0).tx.state = .opl ∧ txOffer (atTx .opl 0).tx = some 0x134) ∧
    ((atTx .ah 0).tx.state = .ah ∧ txOffer (atTx .ah 0).tx = some 0x0BE) ∧
    ((atTx .al 0).tx.state = .al ∧ txOffer (atTx .al 0).tx = some 0x0EF) ∧
    ((atTx .ac 0).tx.state = .ac ∧ txOffer (atTx .ac 0).tx = some 0x192) := by decide

/-- TxAbortFreesTheUnit: both clauses. -/
theorem witness_abort :
    (∃ t, exec .txAbort (atTx .al 1) = .next t) ∧ (State.reset.Inv ∧ State.reset.tx.state = .idle) :=
  ⟨⟨_, rfl⟩, by decide⟩

/-- TxTransitionsAreTheTable: an operation of every row. -/
theorem witness_tx_moves :
    (∃ t, exec (.txStart 1 0x1234) State.reset = .next t ∧ t.tx.state ≠ State.reset.tx.state) ∧
    (∃ t, exec .txByte (atTx .oph 1) = .next t ∧ t.tx.state ≠ (atTx .oph 1).tx.state) ∧
    (∃ t, exec .txByte (atTx .opl 0) = .next t ∧ t.tx.state ≠ (atTx .opl 0).tx.state) ∧
    (∃ t, exec .txByte (atTx .opl 1) = .next t ∧ t.tx.state ≠ (atTx .opl 1).tx.state) ∧
    (∃ t, exec (.txArg 0xBEEF) (atTx .wait 1) = .next t ∧ t.tx.state ≠ (atTx .wait 1).tx.state) ∧
    (∃ t, exec .txByte (atTx .ah 1) = .next t ∧ t.tx.state ≠ (atTx .ah 1).tx.state) ∧
    (∃ t, exec .txByte (atTx .al 1) = .next t ∧ t.tx.state ≠ (atTx .al 1).tx.state) ∧
    (∃ t, exec .txByte (atTx .ac 0) = .next t ∧ t.tx.state ≠ (atTx .ac 0).tx.state) ∧
    (∃ t, exec .txByte (atTx .ac 1) = .next t ∧ t.tx.state ≠ (atTx .ac 1).tx.state) ∧
    (∃ t, exec .txAbort (atTx .ac 1) = .next t ∧ t.tx.state ≠ (atTx .ac 1).tx.state) := by
  refine ⟨⟨_, rfl, ?_⟩, ⟨_, rfl, ?_⟩, ⟨_, rfl, ?_⟩, ⟨_, rfl, ?_⟩, ⟨_, rfl, ?_⟩, ⟨_, rfl, ?_⟩, ⟨_, rfl, ?_⟩, ⟨_, rfl, ?_⟩,
    ⟨_, rfl, ?_⟩, ⟨_, rfl, ?_⟩⟩ <;> decide

/-- OfferedItemIsStable, TxUnitWaitsForTheMissingStep (first clause). -/
theorem witness_offer_stable :
    (∃ t, runInstrs [.txStart 0 0, .crcGen 0, .rxStart 1] (atTx .ac 0) = .next t) ∧ txOffer (atTx .ac 0).tx = some 0x192 ∧
    Offering (atTx .ac 0).tx.state ∧
    ∀ i ∈ [Instr.txStart 0 0, .crcGen 0, .rxStart 1], i ≠ .txByte ∧ i ≠ .txAbort :=
  ⟨⟨_, rfl⟩, rfl, .inr (.inr (.inr (.inr rfl))), by decide⟩

/-- TxUnitWaitsForTheMissingStep (second clause). -/
theorem witness_tx_waits :
    (∃ t, runInstrs [.txStart 0 0, .txByte, .rxClear] (atTx .wait 1) = .next t) ∧ (atTx .wait 1).tx.state = .wait ∧
    ∀ i ∈ [Instr.txStart 0 0, .txByte, .rxClear], (∀ w, i ≠ .txArg w) ∧ i ≠ .txAbort :=
  ⟨⟨_, rfl⟩, rfl, by simp⟩

/-- EncodeStepsComputeEncodeCommand: an empty and a one-word frame, after some history. -/
theorem witness_encode :
    (([] : List Word).length ≤ 255 ∧ (atTx .idle 0).tx.state = .idle) ∧
    ([0xBEEF] : List Word).length ≤ 255 ∧ (List.replicate 255 (0 : Word)).length ≤ 255 :=
  ⟨⟨by decide, rfl⟩, by decide, by rw [List.length_replicate]⟩

/-- RxStartBeginsAFrame: each clause, at MAX_RESP and one above. -/
theorem witness_rx_start :
    (atRx (rxFresh 1)).rx.state ≠ .idle ∧
    (State.reset.rx.state = .idle ∧ State.reset.config.maxResp < (33 : Byte).toNat) ∧
    (32 : Byte).toNat ≤ State.reset.config.maxResp := by decide

/-- RxByteTakesOneByte: each clause; the one that stores at the first and at the last entry. -/
theorem witness_rx_byte :
    (rxFresh 0).widx = (rxFresh 0).expect ∧
    ((rxFresh 1).overflow = false ∧ (rxFresh 1).widx ≠ (rxFresh 1).expect ∧ (rxFresh 1).phase = .p0) ∧
    ({ rxFresh 1 with phase := .p1 }.widx ≠ (rxFresh 1).expect ∧ { rxFresh 1 with phase := .p1 }.phase = .p1) ∧
    (rxHeld.state = .active ∧ rxHeld.overflow = false ∧ rxHeld.widx ≠ rxHeld.expect ∧ rxHeld.phase = .p2 ∧
      rxHeld.widx.toNat < State.reset.config.maxResp ∧ crc8Word (mkWord rxHeld.hi rxHeld.lo) = 0x92) ∧
    ((31 : Byte) ≠ 32 ∧ (31 : Byte).toNat < State.reset.config.maxResp) ∧
    (crc8Word (mkWord rxHeld.hi rxHeld.lo) ≠ 0x93 ∧ rxHeld.cerr = false ∧ { rxHeld with cerr := true }.cerr = true) := by
  decide +kernel

/-- RxEndFixesTheVerdict. -/
theorem witness_rx_end : (atRx (rxFresh 0)).rx.state = .active := rfl

/-- RxResultReadsTheVerdict: each clause. -/
theorem witness_rx_result :
    rxHeld.state ≠ .done ∧ (rxDoneOk.state = .done ∧ rxDoneOk.res = .ok) ∧
    (rxDoneBad.state = .done ∧ rxDoneBad.res = .checksum) ∧ (rxDoneShort.state = .done ∧ rxDoneShort.res = .length) := by
  decide

/-- RxRdwordReadsADecodedWord: each clause; the last at the first and at the last index. -/
theorem witness_rx_rdword :
    (rxHeld.state ≠ .done ∧ rxDoneBad.res ≠ .ok) ∧
    (rxDoneOk.state = .done ∧ rxDoneOk.res = .ok ∧ rxDoneOk.expect ≤ 1) ∧
    ((0 : Byte) < rxDoneOk.expect ∧ (0 : Byte).toNat < State.reset.config.maxResp ∧
      Memory.find (0 : Byte).toNat rxDoneOk.buf = some 0xBEEF) ∧
    (atRx rxDoneOk).Inv := by decide
theorem witness_rx_rdword_last :
    (atRx rxLargest).Inv ∧ rxLargest.state = .done ∧ rxLargest.res = .ok ∧ (31 : Byte) < rxLargest.expect := by decide

/-- RxClearFreesTheUnit. -/
theorem witness_rx_clear :
    (State.reset.Inv ∧ State.reset.rx.state = .idle) ∧ ∃ t, exec .rxClear (atRx rxDoneOk) = .next t :=
  ⟨by decide, _, rfl⟩

/-- RxTransitionsAreTheTable: an operation of every row. -/
theorem witness_rx_moves :
    (∃ t, exec (.rxStart 32) State.reset = .next t ∧ t.rx.state ≠ State.reset.rx.state) ∧
    (∃ t, exec (.rxEnd 0) (atRx rxHeld) = .next t ∧ t.rx.state ≠ (atRx rxHeld).rx.state) ∧
    (∃ t, exec .rxClear (atRx rxHeld) = .next t ∧ t.rx.state ≠ (atRx rxHeld).rx.state) ∧
    (∃ t, exec .rxClear (atRx rxDoneOk) = .next t ∧ t.rx.state ≠ (atRx rxDoneOk).rx.state) := by
  refine ⟨⟨_, rfl, ?_⟩, ⟨_, rfl, ?_⟩, ⟨_, rfl, ?_⟩, ⟨_, rfl, ?_⟩⟩ <;> decide

/-- RxUnitWaitsForTheMissingStep: both clauses. -/
theorem witness_rx_waits :
    ((∃ t, runInstrs [.rxByte 0x92, .rxStart 1, .rxResult] (atRx rxHeld) = .next t) ∧ (atRx rxHeld).rx.state = .active ∧
      ∀ i ∈ [Instr.rxByte 0x92, .rxStart 1, .rxResult], (∀ d, i ≠ .rxEnd d) ∧ i ≠ .rxClear) ∧
    ((∃ t, runInstrs [.rxByte 0, .rxEnd 0, .rxRdword 0] (atRx rxDoneOk) = .next t) ∧ (atRx rxDoneOk).rx.state = .done ∧
      ∀ i ∈ [Instr.rxByte 0, .rxEnd 0, .rxRdword 0], i ≠ .rxClear) :=
  ⟨⟨next_of_goes (by decide +kernel), rfl, by simp⟩, ⟨_, rfl⟩, rfl, by simp⟩

/-- RxFlagsAreSticky: both clauses. -/
theorem witness_flags :
    ((∃ t, runInstrs [.rxByte 0, .rxEnd 0]
        (atRx { rxFresh 1 with widx := 1, overflow := true, cerr := true, cidx := 0 }) = .next t) ∧
      ∀ i ∈ [Instr.rxByte 0, .rxEnd 0], (∀ n, i ≠ .rxStart n) ∧ i ≠ .rxClear) ∧
    (∃ t, exec (.rxByte 0x93) (atRx rxHeld) = .next t ∧ (t.rx.cerr != (atRx rxHeld).rx.cerr) = true) ∧
    (∃ t, exec (.rxEnd 0) (atRx rxHeld) = .next t ∧ t.rx.res ≠ (atRx rxHeld).rx.res) :=
  ⟨⟨⟨_, rfl⟩, by simp⟩, next_of_leads (by decide +kernel), ⟨_, rfl, by decide⟩⟩

/-- DecodeStepsComputeDecodeResponse, DecodeMacroDeliversAllOrNothing: the smallest and the largest count. -/
theorem witness_decode :
    State.reset.rx.state = .idle ∧ (0 : Byte).toNat ≤ State.reset.config.maxResp ∧
    (32 : Byte).toNat ≤ State.reset.config.maxResp := by decide

/-- CorruptionIsReportedAtTheFirstGroup: both clauses. -/
theorem witness_corruption :
    (∀ p ∈ [((0xBEEF : Word), (0 : BitVec 24)), (0x1234, 0x800003)], flips p.2 ≤ 3) ∧
    0 < ([0xBEEF] : List Word).length ∧ 7 < 8 := by
  refine ⟨fun p hp => ?_, by decide, by decide⟩
  rcases List.mem_cons.1 hp with rfl | hp
  · decide
  · cases List.mem_singleton.1 hp
    decide

/-- LoopbackGivesBackTheArguments. -/
theorem witness_loopback :
    State.reset.Quiescent ∧ State.reset.config.wf ∧ ([0xBEEF, 0x1234] : List Word).length ≤ State.reset.config.maxResp ∧
    ([0xBEEF, 0x1234] : List Word)[1]? = some 0x1234 := by decide

/-- UnitsAreIndependent: each clause. -/
theorem witness_units :
    ((∃ t, exec (.rxByte 0x92) (atRx rxHeld) = .next t) ∧ (Instr.rxByte 0x92).part ≠ .tx) ∧
    ((∃ t, exec .txByte (atTx .oph 1) = .next t) ∧ Instr.txByte.part ≠ .rx) ∧
    (State.reset.Inv ∧ (Instr.txStart 1 0x1234).part ≠ (Instr.rxStart 1).part) :=
  ⟨⟨next_of_goes (by decide +kernel), by decide⟩, ⟨⟨_, rfl⟩, by decide⟩, by decide⟩

/-- InterleavingDisturbsNoUnit, NothingStopsWhileTheInvariantHolds, EveryStepKeepsTheInvariant: states with both units
busy satisfy the invariant, and a step from one goes on. -/
theorem witness_invariant : ((atTx .ac 1).withRx rxHeld).Inv ∧ (atRx rxDoneShort).Inv :=
  ⟨by decide +kernel, by decide⟩
theorem witness_invariant_bad : ((atTx .wait 1).withRx rxDoneBad).Inv := by decide +kernel
theorem witness_step_goes_on : ∃ t, step (waiting (atRx rxHeld) [.r] [] [0x092]) = .next t :=
  next_of_goes (by decide +kernel)

/-- P6 of the vectors, cut short (InterleavingDisturbsNoUnit): each unit's responses in a merge of three units' commands. -/
theorem test_answersOf :
    let is : List Instr := [.txStart 1 0x1234, .rxResult, .txByte, .crcGen 0xFF00, .txStat]
    answersOf .tx is State.reset = [0x00000000, 0x00010002] ∧ answersOf .rx is State.reset = [0x20000000] ∧
    answersOf .crc is State.reset = [0x00000000] := by decide +kernel

/-- EveryCommandIsAnsweredOnce, RegistersAreWrittenOnlyByTheirOperations: a host command, a T and an R transfer. -/
theorem witness_exec_next :
    ((∃ t, exec .txStat State.reset = .next t) ∧ Instr.txStat.isHost = true) ∧
    ((∃ t, exec .txByte (atTx .ac 0) = .next t) ∧ Instr.txByte.isHost = false) ∧
    (∃ t, exec (.rxByte 0x92) (atRx rxHeld) = .next t) := 
  ⟨⟨⟨_, rfl⟩, rfl⟩, ⟨⟨_, rfl⟩, rfl⟩, next_of_goes (by decide +kernel)⟩

/-- BufferChangesOnlyWhereStored: each clause. -/
theorem witness_buffer :
    ((∃ t, exec (.rxByte 0x92) (atRx rxHeld) = .next t) ∧ (atRx rxHeld).rx.state = .active ∧
      rxStore 0x92 rxHeld = some (0, 0xBEEF)) ∧
    (∃ t, exec (.rxStart 1) State.reset = .next t ∧ t.rx.state ≠ State.reset.rx.state) ∧
    (∃ t, exec (.rxStart 33) State.reset = .next t ∧ t.rx.state = State.reset.rx.state) :=
  ⟨⟨next_of_goes (by decide +kernel), rfl, by decide +kernel⟩, ⟨_, rfl, by decide⟩, ⟨_, rfl, by decide⟩⟩

/-- StatusesHaveTheirCauses, ErrorsChangeNoRegister: a response with each status an operation can give. -/
theorem witness_statuses :
    (∃ t, exec .txAbort State.reset = .next t ∧ t.ports.responses = State.reset.ports.responses ++ [0x00000000]) ∧
    (∃ t, exec .rxResult State.reset = .next t ∧ t.ports.responses = State.reset.ports.responses ++ [0x20000000]) ∧
    (∃ t, exec (.rxStart 33) State.reset = .next t ∧ t.ports.responses = State.reset.ports.responses ++ [0x30000000]) ∧
    (∃ t, exec .rxResult (atRx rxDoneBad) = .next t ∧
      t.ports.responses = (atRx rxDoneBad).ports.responses ++ [0x40010000]) ∧
    (∃ t, exec .rxResult (atRx rxDoneShort) = .next t ∧
      t.ports.responses = (atRx rxDoneShort).ports.responses ++ [0x50000000]) ∧
    rspSt 0x20000000 ≠ 0 := by
  refine ⟨⟨_, rfl, ?_⟩, ⟨_, rfl, ?_⟩, ⟨_, rfl, ?_⟩, ⟨_, rfl, ?_⟩, ⟨_, rfl, ?_⟩, ?_⟩ <;> decide

/-- ReadsAreIdempotent. -/
theorem witness_reads : IsRead (.rxRdword 0) ∧ ∃ t, exec (.rxRdword 0) (atRx rxDoneOk) = .next t := ⟨trivial, _, rfl⟩

/-- PartialResultsAreNeverSurfaced: a failed frame, with another content of the buffer. -/
theorem witness_partial :
    (atRx rxDoneBad).rx.res ≠ .ok ∧ (∃ t, exec (.rxRdword 0) (atRx rxDoneBad) = .next t) ∧
    (∃ t, exec (.rxRdword 0) (withBuffer (atRx rxDoneBad) [(0, 0xFFFF)]) = .next t) := ⟨by decide, ⟨_, rfl⟩, ⟨_, rfl⟩⟩
theorem witness_partial_byte :
    (∀ k, Instr.rxByte 0x92 ≠ .rxRdword k) ∧ (∃ t, exec (.rxByte 0x92) (atRx rxHeld) = .next t) ∧
    (∃ t, exec (.rxByte 0x92) (withBuffer (atRx rxHeld) [(0, 0xFFFF)]) = .next t) :=
  ⟨by simp, next_of_goes (by decide +kernel), next_of_goes (by decide +kernel)⟩

/-- UnspecifiedRegistersAreUnobservable; InvariantHoldsAtReset at the bounds of MAX_RESP. -/
theorem witness_unspecified :
    State.reset.Inv ∧ State.reset.Quiescent ∧ ({ maxResp := 1 } : Config).wf ∧ ({ maxResp := 255 } : Config).wf := by decide

end Sys2Proof.Tests
end

/-! # Host commands complete, and what reset leaves (10_state.md) -/

namespace Sys2Proof.Machine

/-! ## Completion of the host commands: which of them can stop, and only there -/

section
variable (s : State)

theorem respond_completes (st : Status) (x : Byte) (v : Word) : ∃ t, respond st x v s = .next t := ⟨_, rfl⟩

theorem raise_completes (st : Status) : ∃ t, raise st s = .next t := ⟨_, rfl⟩

theorem execTxStart_completes (n : Byte) (op : Word) : ∃ t, execTxStart n op s = .next t := by
  unfold execTxStart
  split
  · exact respond_completes ..
  · exact raise_completes ..

theorem execTxArg_completes (w : Word) : ∃ t, execTxArg w s = .next t := by
  unfold execTxArg
  split
  · exact respond_completes ..
  · exact raise_completes ..

theorem execRxStart_completes (n : Byte) : ∃ t, execRxStart n s = .next t := by
  unfold execRxStart
  split
  · exact raise_completes ..
  · split
    · exact raise_completes ..
    · exact respond_completes ..

theorem execRxResult_completes : ∃ t, execRxResult s = .next t := by
  unfold execRxResult
  split
  · exact raise_completes ..
  · split
    · exact respond_completes ..
    · exact respond_completes ..
    · exact raise_completes ..

/-- The entries RX.RDWORD may read (R160) all hold a value. -/
def State.EntriesReadable : Prop :=
  s.rx.state = .done → s.rx.res = .ok → ∀ k < s.rx.expect, ∃ w, readEntry s.config s.rx.buf k = .ok w

variable {s}

theorem State.entriesReadable_of_not_done (h : s.rx.state ≠ .done) : s.EntriesReadable := fun hd => absurd hd h

theorem execRxRdword_completes (hr : s.EntriesReadable) (k : Byte) : ∃ t, execRxRdword k s = .next t := by
  unfold execRxRdword
  split
  · exact raise_completes ..
  · next hs =>
    split
    · exact raise_completes ..
    · next hk =>
      obtain ⟨hd, ho⟩ := not_or.1 hs
      obtain ⟨w, hw⟩ := hr (Decidable.not_not.1 hd) (Decidable.not_not.1 ho) k (BitVec.not_le.1 hk)
      rw [hw]
      exact respond_completes ..

/-- Only RX.RDWORD can stop a host command, and only at an entry without a value (R51; log entries 5 and 6). -/
theorem exec_host_completes (hr : s.EntriesReadable) {i : Instr} (hi : i.isHost = true) : ∃ t, exec i s = .next t := by
  cases i with
  | crcGen w => exact respond_completes ..
  | crcChk c w => exact respond_completes ..
  | txStart n op => exact execTxStart_completes s n op
  | txArg w => exact execTxArg_completes s w
  | txAbort => exact respond_completes ..
  | txStat => exact respond_completes ..
  | rxStart n => exact execRxStart_completes s n
  | rxResult => exact execRxResult_completes s
  | rxRdword k => exact execRxRdword_completes hr k
  | rxClear => exact respond_completes ..
  | rxStat => exact respond_completes ..
  | txByte => cases hi
  | rxByte b => cases hi
  | rxEnd d => cases hi

end

/-! ## What reset leaves (R43) -/

/-- After reset `rx_state` is not `R_DONE`, so there is no entry that RX.RDWORD may read (R160). -/
theorem State.reset_entriesReadable : State.reset.EntriesReadable := State.entriesReadable_of_not_done (by decide)

@[simp] theorem txOffer_reset : txOffer TxRegs.reset = none := rfl

@[simp] theorem rxReady_reset : rxReady RxRegs.reset = false := rfl

@[simp] theorem RxRegs.find_buf_reset (k : Nat) : Memory.find k RxRegs.reset.buf = none := Memory.find_nil k

/-- Settles O8: the registers and ports are read off `State.reset`; a host command completes because the one that could
stop, RX.RDWORD, finds `rx_state` not at `R_DONE`. -/
theorem resetRegisterValues : Obligations.ResetRegisterValues :=
  ⟨rfl, rfl, rfl, rfl, rfl, rfl, rfl, rfl, rfl, rfl, RxRegs.find_buf_reset, txOffer_reset, rxReady_reset, rfl,
    fun _ hi => exec_host_completes State.reset_entriesReadable hi⟩

end Sys2Proof.Machine

/-! # The units are independent (20_memory.md) -/

namespace Sys2Proof.Machine

/-! ## Completion: under the invariant every operation completes -/

section
variable {s : State}

/-- The verdict `RES_OK` of the invariant says that all `rx_expect` entries were stored (R37(g), R160). -/
theorem State.Inv.entriesReadable (h : s.Inv) : s.EntriesReadable := by
  obtain ⟨-, -, ⟨-, hmax⟩, -, -, -, -, -, -, hdone, -, -, hheld⟩ := h
  intro hd ho k hk
  obtain ⟨-, hw, -, hc⟩ := verdict_ok ((hdone hd).symm.trans ho)
  have hk : k.toNat < s.rx.expect.toNat := BitVec.lt_def.1 hk
  obtain ⟨w, hf⟩ := Option.isSome_iff_exists.1 (hheld hc k.toNat (hw ▸ hk))
  exact ⟨w, by rw [readEntry, if_pos (by omega), hf]⟩

/-- A byte either belongs to a group below `rx_expect`, whose entry exists, or is beyond the frame (R37(b), R157). -/
theorem State.Inv.widx_lt_or_beyond (h : s.Inv) : s.rx.widx.toNat < s.config.maxResp ∨ rxBeyond s.rx = true := by
  obtain ⟨-, -, ⟨hle, hmax⟩, -⟩ := h
  by_cases he : s.rx.widx = s.rx.expect
  · exact .inr ((rxBeyond_iff _).2 (.inr he))
  · have hlt : s.rx.widx.toNat < s.rx.expect.toNat := BitVec.lt_def.1 (BitVec.lt_of_le_ne hle he)
    exact .inl (by omega)

theorem execTxByte_completes (s : State) : ∃ t, execTxByte s = .next t := by
  unfold execTxByte
  split <;> exact ⟨_, rfl⟩

theorem execRxByte_completes (b : Byte) (h : s.rx.widx.toNat < s.config.maxResp ∨ rxBeyond s.rx = true) :
    ∃ t, execRxByte b s = .next t := by
  obtain ⟨rx, hrx⟩ := rxTake_ok b h
  unfold execRxByte
  split
  · exact ⟨_, by rw [hrx]⟩
  · exact ⟨_, rfl⟩

theorem execRxEnd_completes (d : Byte) (s : State) : ∃ t, execRxEnd d s = .next t := by
  unfold execRxEnd
  split <;> exact ⟨_, rfl⟩

theorem exec_completes (h : s.Inv) (i : Instr) : ∃ t, exec i s = .next t := by
  cases hi : i.isHost with
  | true => exact exec_host_completes h.entriesReadable hi
  | false =>
    cases i with
    | txByte => exact execTxByte_completes s
    | rxByte b => exact execRxByte_completes b h.widx_lt_or_beyond
    | rxEnd d => exact execRxEnd_completes d s
    | _ => cases hi

end

/-! ## What an operation does, apart from the state it is done to -/

/-- The registers an operation writes (`none`: those of that unit are left as they are), and what it gives out. -/
structure Effect where
  tx        : Option TxRegs
  rx        : Option RxRegs
  responses : List Word32
  items     : List Item

/-- The state after an effect. -/
def State.after (s : State) (e : Effect) : State :=
  { s with
    tx := e.tx.getD s.tx
    rx := e.rx.getD s.rx
    ports := { s.ports with responses := s.ports.responses ++ e.responses, tItems := s.ports.tItems ++ e.items } }

/-- The effect writes the registers of the unit `p` only, and gives out items only when `p` is the TX unit. -/
structure Effect.Within (e : Effect) (p : Part) : Prop where
  tx    : p ≠ .tx → e.tx = none
  rx    : p ≠ .rx → e.rx = none
  items : p ≠ .tx → e.items = []

/-- Two states are the same for the unit `p`: the same parameters and the same registers of `p`. The CRC unit has no
register (R21). -/
structure State.SameFor (p : Part) (s s' : State) : Prop where
  config : s'.config = s.config
  tx     : p = .tx → s'.tx = s.tx
  rx     : p = .rx → s'.rx = s.rx

/-- R64 for one operation in the state `s`: it has the effect `e`, which stays within its unit, from every state that is
the same as `s` for its unit. -/
structure HasEffect (i : Instr) (s : State) (e : Effect) : Prop where
  within : e.Within i.part
  exec   : ∀ s', s.SameFor i.part s' → exec i s' = .next (s'.after e)

section
variable (s : State)

theorem State.SameFor.refl (p : Part) : s.SameFor p s := ⟨rfl, fun _ => rfl, fun _ => rfl⟩

@[simp] theorem State.after_config (e : Effect) : (s.after e).config = s.config := rfl
@[simp] theorem State.after_tx (e : Effect) : (s.after e).tx = e.tx.getD s.tx := rfl
@[simp] theorem State.after_rx (e : Effect) : (s.after e).rx = e.rx.getD s.rx := rfl
@[simp] theorem State.after_responses (e : Effect) :
    (s.after e).ports.responses = s.ports.responses ++ e.responses := rfl
@[simp] theorem State.after_tItems (e : Effect) : (s.after e).ports.tItems = s.ports.tItems ++ e.items := rfl

/-! The effects that occur, as the updates that `exec` is written in. -/

@[simp] theorem State.after_nothing : s.after ⟨none, none, [], []⟩ = s := by
  simp [State.after]

@[simp] theorem State.after_answer (r : Word32) : s.after ⟨none, none, [r], []⟩ = s.giveResponse r := by
  simp [State.after, State.giveResponse]

@[simp] theorem State.after_tx_answer (tx : TxRegs) (r : Word32) :
    s.after ⟨some tx, none, [r], []⟩ = (s.withTx tx).giveResponse r := by
  simp [State.after, State.giveResponse, State.withTx]

@[simp] theorem State.after_tx_item (tx : TxRegs) (it : Item) :
    s.after ⟨some tx, none, [], [it]⟩ = (s.withTx tx).giveItem it := by
  simp [State.after, State.giveItem, State.withTx]

@[simp] theorem State.after_rx_only (rx : RxRegs) : s.after ⟨none, some rx, [], []⟩ = s.withRx rx := by
  simp [State.after, State.withRx]

@[simp] theorem State.after_rx_answer (rx : RxRegs) (r : Word32) :
    s.after ⟨none, some rx, [r], []⟩ = (s.withRx rx).giveResponse r := by
  simp [State.after, State.giveResponse, State.withRx]

end

section
variable {i j : Instr} {s t : State}

/-! ## Every completed operation has an effect within its unit -/

/-- An operation that gives the same answer in every state, as those of the CRC unit do. -/
theorem exists_hasEffect_of_answer (r : Word32) (h : ∀ s', exec i s' = .next (s'.giveResponse r)) :
    ∃ e, HasEffect i s e :=
  ⟨⟨none, none, [r], []⟩, ⟨fun _ => rfl, fun _ => rfl, fun _ => rfl⟩, fun s' _ => by simp [h s']⟩

theorem exists_hasEffect_of_tx (hp : i.part = .tx) (tx : Option TxRegs) (rs : List Word32) (its : List Item)
    (h : ∀ s', s'.tx = s.tx → exec i s' = .next (s'.after ⟨tx, none, rs, its⟩)) : ∃ e, HasEffect i s e :=
  ⟨_, ⟨fun hn => absurd hp hn, fun _ => rfl, fun hn => absurd hp hn⟩, fun s' hs => h s' (hs.tx hp)⟩

theorem exists_hasEffect_of_rx (hp : i.part = .rx) (rx : Option RxRegs) (rs : List Word32)
    (h : ∀ s', s'.config = s.config → s'.rx = s.rx → exec i s' = .next (s'.after ⟨none, rx, rs, []⟩)) :
    ∃ e, HasEffect i s e :=
  ⟨_, ⟨fun _ => rfl, fun hn => absurd hp hn, fun _ => rfl⟩, fun s' hs => h s' hs.config (hs.rx hp)⟩

theorem exists_hasEffect_txStart {n : Byte} {op : Word} (h : exec (.txStart n op) s = .next t) :
    ∃ e, HasEffect (.txStart n op) s e := by
  rcases execTxStart_cases h with ⟨hs, -⟩ | ⟨hs, -⟩
  · exact exists_hasEffect_of_tx rfl (some (txStarted n op s.tx)) [rspWord .ok 0 0] []
      fun s' htx => by simp [exec, execTxStart, htx, hs]
  · exact exists_hasEffect_of_tx rfl none [rspWord .eState 0 0] [] fun s' htx => by simp [exec, execTxStart, htx, hs]

theorem exists_hasEffect_txArg {w : Word} (h : exec (.txArg w) s = .next t) : ∃ e, HasEffect (.txArg w) s e := by
  rcases execTxArg_cases h with ⟨hs, -⟩ | ⟨hs, -⟩
  · exact exists_hasEffect_of_tx rfl (some (txArgTaken w s.tx)) [rspWord .ok 0 0] []
      fun s' htx => by simp [exec, execTxArg, htx, hs]
  · exact exists_hasEffect_of_tx rfl none [rspWord .eState 0 0] [] fun s' htx => by simp [exec, execTxArg, htx, hs]

theorem exists_hasEffect_txByte (h : exec .txByte s = .next t) : ∃ e, HasEffect .txByte s e := by
  rcases execTxByte_cases h with ⟨it, ho, -⟩ | ⟨ho, -⟩
  · exact exists_hasEffect_of_tx rfl (some { s.tx with state := txNextState s.tx }) [] [it]
      fun s' htx => by simp [exec, execTxByte, htx, ho]
  · exact exists_hasEffect_of_tx rfl none [] [] fun s' htx => by simp [exec, execTxByte, htx, ho]

theorem exists_hasEffect_rxStart {n : Byte} (h : exec (.rxStart n) s = .next t) : ∃ e, HasEffect (.rxStart n) s e := by
  rcases execRxStart_cases h with ⟨hs, -⟩ | ⟨hs, hn, -⟩ | ⟨hs, hn, -⟩
  · exact exists_hasEffect_of_rx rfl none [rspWord .eState 0 0] fun s' _ hrx => by simp [exec, execRxStart, hrx, hs]
  · exact exists_hasEffect_of_rx rfl none [rspWord .eRange 0 0]
      fun s' hc hrx => by simp [exec, execRxStart, hc, hrx, hs, hn]
  · exact exists_hasEffect_of_rx rfl (some (rxStarted n s.rx)) [rspWord .ok 0 0]
      fun s' hc hrx => by simp [exec, execRxStart, hc, hrx, hs, Nat.not_lt.2 hn]

theorem exists_hasEffect_rxResult (h : exec .rxResult s = .next t) : ∃ e, HasEffect .rxResult s e := by
  rcases execRxResult_cases h with ⟨hs, -⟩ | ⟨hs, hr, -⟩ | ⟨hs, hr, -⟩ | ⟨hs, hr, -⟩
  · exact exists_hasEffect_of_rx rfl none [rspWord .eState 0 0] fun s' _ hrx => by simp [exec, execRxResult, hrx, hs]
  · exact exists_hasEffect_of_rx rfl none [rspWord .ok 0 (zext16 s.rx.expect)]
      fun s' _ hrx => by simp [exec, execRxResult, hrx, hs, hr]
  · exact exists_hasEffect_of_rx rfl none [rspWord .eChecksum s.rx.cidx 0]
      fun s' _ hrx => by simp [exec, execRxResult, hrx, hs, hr]
  · exact exists_hasEffect_of_rx rfl none [rspWord .eLength 0 0]
      fun s' _ hrx => by simp [exec, execRxResult, hrx, hs, hr]

theorem exists_hasEffect_rxRdword {k : Byte} (h : exec (.rxRdword k) s = .next t) : ∃ e, HasEffect (.rxRdword k) s e := by
  rcases execRxRdword_cases h with ⟨hs, -⟩ | ⟨hs, hr, hk, -⟩ | ⟨hs, hr, hk, hl, w, hf, -⟩
  · exact exists_hasEffect_of_rx rfl none [rspWord .eState 0 0]
      fun s' _ hrx => by rw [exec, execRxRdword, hrx, if_pos hs]; simp
  · exact exists_hasEffect_of_rx rfl none [rspWord .eRange 0 0]
      fun s' _ hrx => by simp [exec, execRxRdword, hrx, hs, hr, hk]
  · exact exists_hasEffect_of_rx rfl none [rspWord .ok 0 w]
      fun s' hc hrx => by simp [exec, execRxRdword, readEntry, hc, hrx, hs, hr, BitVec.not_le.2 hk, hl, hf]

theorem exists_hasEffect_rxByte {b : Byte} (h : exec (.rxByte b) s = .next t) : ∃ e, HasEffect (.rxByte b) s e := by
  rcases execRxByte_cases h with ⟨hs, rx, htake, -⟩ | ⟨hs, -⟩
  · exact exists_hasEffect_of_rx rfl (some rx) []
      fun s' hc hrx => by simp [exec, execRxByte, rxReady_iff, hc, hrx, hs, htake]
  · exact exists_hasEffect_of_rx rfl none [] fun s' _ hrx => by simp [exec, execRxByte, rxReady_iff, hrx, hs]

theorem exists_hasEffect_rxEnd {d : Byte} (h : exec (.rxEnd d) s = .next t) : ∃ e, HasEffect (.rxEnd d) s e := by
  rcases execRxEnd_cases (d := d) h with ⟨hs, -⟩ | ⟨hs, -⟩
  · exact exists_hasEffect_of_rx rfl (some { s.rx with res := verdict s.rx, state := .done }) []
      fun s' _ hrx => by simp [exec, execRxEnd, rxReady_iff, hrx, hs]
  · exact exists_hasEffect_of_rx rfl none [] fun s' _ hrx => by simp [exec, execRxEnd, rxReady_iff, hrx, hs]

theorem exists_hasEffect (h : exec i s = .next t) : ∃ e, HasEffect i s e := by
  cases i with
  | crcGen w => exact exists_hasEffect_of_answer _ fun _ => rfl
  | crcChk c w => exact exists_hasEffect_of_answer _ fun _ => rfl
  | txStart n op => exact exists_hasEffect_txStart h
  | txArg w => exact exists_hasEffect_txArg h
  | txAbort =>
    exact exists_hasEffect_of_tx rfl (some { s.tx with state := .idle, rem := 0 }) [rspWord .ok 0 0] []
      fun s' htx => by simp [exec, execTxAbort, htx]
  | txStat =>
    exact exists_hasEffect_of_tx rfl none [rspWord .ok s.tx.rem (txStatus s.tx)] []
      fun s' htx => by simp [exec, execTxStat, htx]
  | rxStart n => exact exists_hasEffect_rxStart h
  | rxResult => exact exists_hasEffect_rxResult h
  | rxRdword k => exact exists_hasEffect_rxRdword h
  | rxClear =>
    exact exists_hasEffect_of_rx rfl (some { clearFrame s.rx with state := .idle }) [rspWord .ok 0 0]
      fun s' _ hrx => by simp [exec, execRxClear, hrx]
  | rxStat =>
    exact exists_hasEffect_of_rx rfl none [rspWord .ok s.rx.widx (rxStatus s.rx)]
      fun s' _ hrx => by simp [exec, execRxStat, hrx]
  | txByte => exact exists_hasEffect_txByte h
  | rxByte b => exact exists_hasEffect_rxByte h
  | rxEnd d => exact exists_hasEffect_rxEnd h

/-- A completed operation leaves the state after its effect. -/
theorem exists_hasEffect_eq_after (h : exec i s = .next t) : ∃ e, HasEffect i s e ∧ t = s.after e := by
  obtain ⟨e, he⟩ := exists_hasEffect h
  have ht : exec i s = .next (s.after e) := he.exec s (.refl s _)
  exact ⟨e, he, by injection h.symm.trans ht⟩

/-! ## Frames, and independence of the other units' registers -/

theorem exec_tx_of_part_ne (hp : i.part ≠ .tx) (h : exec i s = .next t) : t.tx = s.tx := by
  obtain ⟨e, he, rfl⟩ := exists_hasEffect_eq_after h
  simp [he.within.tx hp]

theorem exec_rx_of_part_ne (hp : i.part ≠ .rx) (h : exec i s = .next t) : t.rx = s.rx := by
  obtain ⟨e, he, rfl⟩ := exists_hasEffect_eq_after h
  simp [he.within.rx hp]

theorem exec_withRx (hp : i.part ≠ .rx) (h : exec i s = .next t) (rx : RxRegs) :
    exec i (s.withRx rx) = .next (t.withRx rx) := by
  obtain ⟨e, he, rfl⟩ := exists_hasEffect_eq_after h
  rw [he.exec (s.withRx rx) ⟨rfl, fun _ => rfl, fun hc => absurd hc hp⟩]
  simp [State.after, State.withRx, he.within.rx hp]

theorem exec_withTx (hp : i.part ≠ .tx) (h : exec i s = .next t) (tx : TxRegs) :
    exec i (s.withTx tx) = .next (t.withTx tx) := by
  obtain ⟨e, he, rfl⟩ := exists_hasEffect_eq_after h
  rw [he.exec (s.withTx tx) ⟨rfl, fun hc => absurd hc hp, fun _ => rfl⟩]
  simp [State.after, State.withTx, he.within.tx hp]

/-! ## Operations of different units commute -/

/-- An effect within one unit is not seen by another. -/
theorem State.sameFor_after {p q : Part} {e : Effect} (he : e.Within p) (hpq : p ≠ q) : s.SameFor q (s.after e) where
  config := rfl
  tx hq := by simp [he.tx (hq ▸ hpq)]
  rx hq := by simp [he.rx (hq ▸ hpq)]

theorem runInstrs_pair_of_hasEffect {e f : Effect} (he : HasEffect i s e) (hf : HasEffect j s f)
    (hp : i.part ≠ j.part) : runInstrs [i, j] s = .next ((s.after e).after f) := by
  rw [runInstrs_cons (he.exec s (.refl s _)), runInstrs_cons (hf.exec _ (State.sameFor_after he.within hp)),
    runInstrs_nil]

/-- Effects within different units commute on everything but the order of the responses: of what both could write, at
most one writes. -/
theorem State.after_after_comm {p q : Part} {e f : Effect} (he : e.Within p) (hf : f.Within q) (hpq : p ≠ q) :
    ((s.after e).after f).tx = ((s.after f).after e).tx ∧
    ((s.after e).after f).rx = ((s.after f).after e).rx ∧
    ((s.after e).after f).ports.tItems = ((s.after f).after e).ports.tItems := by
  have htx : e.tx = none ∧ e.items = [] ∨ f.tx = none ∧ f.items = [] := by
    by_cases hp : p = .tx
    · exact .inr ⟨hf.tx (hp ▸ hpq.symm), hf.items (hp ▸ hpq.symm)⟩
    · exact .inl ⟨he.tx hp, he.items hp⟩
  have hrx : e.rx = none ∨ f.rx = none := by
    by_cases hp : p = .rx
    · exact .inr (hf.rx (hp ▸ hpq.symm))
    · exact .inl (he.rx hp)
  refine ⟨?_, ?_, ?_⟩
  · rcases htx with ⟨h, -⟩ | ⟨h, -⟩ <;> simp [h]
  · rcases hrx with h | h <;> simp [h]
  · rcases htx with ⟨-, h⟩ | ⟨-, h⟩ <;> simp [h]

end

/-- Settles O45: an operation has one and the same effect, within its unit, from all states that agree on its unit
(`exists_hasEffect`); the frames, the independence and the commutation follow. -/
theorem unitsAreIndependent : Obligations.UnitsAreIndependent := by
  refine ⟨fun i s t h => ⟨fun hp => exec_tx_of_part_ne hp h, fun hp => exec_rx_of_part_ne hp h⟩,
    fun i s t rx hp h => exec_withRx hp h rx, fun i s t tx hp h => exec_withTx hp h tx, fun i j s hinv hp => ?_⟩
  obtain ⟨a, ha⟩ := exec_completes hinv i
  obtain ⟨b, hb⟩ := exec_completes hinv j
  obtain ⟨e, he, rfl⟩ := exists_hasEffect_eq_after ha
  obtain ⟨f, hf, rfl⟩ := exists_hasEffect_eq_after hb
  obtain ⟨htx, hrx, hitems⟩ := s.after_after_comm he.within hf.within hp
  exact ⟨_, _, (s.after e).after f, (s.after f).after e, e.responses, f.responses, ha, hb, rfl, rfl,
    runInstrs_pair_of_hasEffect he hf hp, runInstrs_pair_of_hasEffect hf he hp.symm, rfl, rfl, htx, hrx, rfl, hitems⟩

end Sys2Proof.Machine

/-! # Decoding of the command words and the R items (30_encoding.md) -/

namespace Sys2Proof

open Sys2Proof.Machine

/-! ## The fields of a command word (R74) -/

section
variable {c c' : Word32}

/-- The decoder's fields (R79) are those the formats speak of (R75). -/
theorem CmdFields.ofWord_eq (c : Word32) : CmdFields.ofWord c = ⟨cmdOp c, cmdRsv c, cmdA c, cmdD c⟩ := rfl

theorem fields_append (c : Word32) : cmdOp c ++ cmdRsv c ++ cmdA c ++ cmdD c = c := by
  have hhigh : cmdOp c ++ cmdRsv c = c.extractLsb' 24 8 := BitVec.extractLsb'_append_extractLsb'_eq_extractLsb' rfl
  have hmid : c.extractLsb' 24 8 ++ cmdA c = c.extractLsb' 16 16 :=
    BitVec.extractLsb'_append_extractLsb'_eq_extractLsb' rfl
  have hlow : c.extractLsb' 16 16 ++ cmdD c = c.extractLsb' 0 32 :=
    BitVec.extractLsb'_append_extractLsb'_eq_extractLsb' rfl
  rw [hhigh, hmid, hlow, BitVec.extractLsb'_eq_self]

theorem word32_eq_iff_fields :
    c = c' ↔ cmdOp c = cmdOp c' ∧ cmdRsv c = cmdRsv c' ∧ cmdA c = cmdA c' ∧ cmdD c = cmdD c' := by
  constructor
  · rintro rfl; exact ⟨rfl, rfl, rfl, rfl⟩
  · rintro ⟨hop, hrsv, ha, hd⟩
    rw [← fields_append c, hop, hrsv, ha, hd, fields_append]

section
variable (op : BitVec 4) (a : Byte) (d : Word)

@[simp] theorem cmdOp_cmdWord : cmdOp (cmdWord op a d) = op := congrArg CmdFields.op (Laws.fields_cmdWord op a d)
@[simp] theorem cmdRsv_cmdWord : cmdRsv (cmdWord op a d) = 0 := congrArg CmdFields.rsv (Laws.fields_cmdWord op a d)
@[simp] theorem cmdA_cmdWord : cmdA (cmdWord op a d) = a := congrArg CmdFields.a (Laws.fields_cmdWord op a d)
@[simp] theorem cmdD_cmdWord : cmdD (cmdWord op a d) = d := congrArg CmdFields.d (Laws.fields_cmdWord op a d)

end

theorem cmdWord_eq_iff {op : BitVec 4} {a : Byte} {d : Word} :
    cmdWord op a d = c ↔ cmdOp c = op ∧ cmdRsv c = 0 ∧ cmdA c = a ∧ cmdD c = d := by
  rw [eq_comm, word32_eq_iff_fields, cmdOp_cmdWord, cmdRsv_cmdWord, cmdA_cmdWord, cmdD_cmdWord]

end

/-! ## Mask and match of each operand format (R75, R78) -/

/-- A mask that covers `op` and `rsv` selects a word by those two and by what it covers of `a` and `d`. -/
theorem and_eq_cmdWord_iff {c : Word32} (m : Word32) (op : BitVec 4) (hop : cmdOp m = BitVec.allOnes 4)
    (hrsv : cmdRsv m = BitVec.allOnes 4) :
    c &&& m = cmdWord op 0 0 ↔ cmdOp c = op ∧ cmdRsv c = 0 ∧ cmdA c &&& cmdA m = 0 ∧ cmdD c &&& cmdD m = 0 := by
  have hopAnd : cmdOp (c &&& m) = cmdOp c &&& cmdOp m := BitVec.extractLsb'_and
  have hrsvAnd : cmdRsv (c &&& m) = cmdRsv c &&& cmdRsv m := BitVec.extractLsb'_and
  have haAnd : cmdA (c &&& m) = cmdA c &&& cmdA m := BitVec.extractLsb'_and
  have hdAnd : cmdD (c &&& m) = cmdD c &&& cmdD m := BitVec.extractLsb'_and
  rw [eq_comm, cmdWord_eq_iff, hopAnd, hrsvAnd, haAnd, hdAnd, hop, hrsv, BitVec.and_allOnes, BitVec.and_allOnes]

section
variable (op : BitVec 4) (c : Word32)

theorem cmdWord_formatN_iff : cmdWord op 0 0 = c ↔ c &&& 0xFFFFFFFF = cmdWord op 0 0 := by
  have hall : c &&& 0xFFFFFFFF = c := BitVec.and_allOnes
  rw [hall, eq_comm]

theorem cmdWord_formatW_iff : (∃ w, cmdWord op 0 w = c) ↔ c &&& 0xFFFF0000 = cmdWord op 0 0 := by
  have ha : cmdA c &&& cmdA 0xFFFF0000 = cmdA c := BitVec.and_allOnes
  have hd : cmdD c &&& cmdD 0xFFFF0000 = 0 := BitVec.and_zero
  rw [and_eq_cmdWord_iff 0xFFFF0000 op rfl rfl, ha, hd]
  simp [cmdWord_eq_iff]

theorem cmdWord_formatAW_iff : (∃ a w, cmdWord op a w = c) ↔ c &&& 0xFF000000 = cmdWord op 0 0 := by
  have ha : cmdA c &&& cmdA 0xFF000000 = 0 := BitVec.and_zero
  have hd : cmdD c &&& cmdD 0xFF000000 = 0 := BitVec.and_zero
  rw [and_eq_cmdWord_iff 0xFF000000 op rfl rfl, ha, hd]
  simp [cmdWord_eq_iff]

theorem cmdWord_formatA_iff : (∃ a, cmdWord op a 0 = c) ↔ c &&& 0xFF00FFFF = cmdWord op 0 0 := by
  have ha : cmdA c &&& cmdA 0xFF00FFFF = 0 := BitVec.and_zero
  have hd : cmdD c &&& cmdD 0xFF00FFFF = cmdD c := BitVec.and_allOnes
  rw [and_eq_cmdWord_iff 0xFF00FFFF op rfl rfl, ha, hd]
  simp [cmdWord_eq_iff]

end

/-! ## The words that decode, the well-formed words and the encoded ones are the same (R79, R80) -/

section
variable {c : Word32} {i : Instr}

theorem encodesWellFormed (i : Instr) : Laws.EncodesWellFormed.Statement i := by
  cases i with
  | crcGen w => exact Laws.EncodesWellFormed.crcGen w
  | crcChk k w => exact Laws.EncodesWellFormed.crcChk k w
  | txStart n op => exact Laws.EncodesWellFormed.txStart n op
  | txArg w => exact Laws.EncodesWellFormed.txArg w
  | txAbort => exact Laws.EncodesWellFormed.txAbort
  | txStat => exact Laws.EncodesWellFormed.txStat
  | rxStart n => exact Laws.EncodesWellFormed.rxStart n
  | rxResult => exact Laws.EncodesWellFormed.rxResult
  | rxRdword k => exact Laws.EncodesWellFormed.rxRdword k
  | rxClear => exact Laws.EncodesWellFormed.rxClear
  | rxStat => exact Laws.EncodesWellFormed.rxStat
  | txByte => exact Laws.EncodesWellFormed.txByte
  | rxByte b => exact Laws.EncodesWellFormed.rxByte b
  | rxEnd d => exact Laws.EncodesWellFormed.rxEnd d

theorem acceptWhen_eq_ok_iff {zero : Bool} {op : BitVec 4} {j : Instr} :
    acceptWhen zero op j = .ok i ↔ zero = true ∧ j = i := by
  cases zero <;> simp [acceptWhen]

theorem decodeCmd_of_encode (h : encode i = .host c) : decodeCmd c = .ok i := by
  cases i <;> cases h <;> simp [decodeCmd, acceptWhen_eq_ok_iff]

/-- The decoder of R79 accepts no word that breaks the formats of R75. -/
theorem wellFormed_of_decodeCmd (h : decodeCmd c = .ok i) : (CmdFields.ofWord c).wellFormed = true := by
  unfold decodeCmd at h
  split at h
  · cases h
  · next hrsv =>
    rw [CmdFields.ofWord_eq, CmdFields.wellFormed, Format.ofOp]
    split at h
    case h_12 => cases h
    -- each accepted row tests exactly the fields that its format does not use
    all_goals simp_all [acceptWhen_eq_ok_iff, Format.usesA, Format.usesD]

/-- An operation whose encoding has the fields of a word is encoded in that word. -/
theorem encode_eq_of_fields {op : BitVec 4} {a : Byte} {d : Word} (hi : encode i = .host (cmdWord op a d))
    (hrsv : cmdRsv c = 0) (hop : (cmdOp c).toNat = op.toNat) (ha : cmdA c = a) (hd : cmdD c = d) :
    encode i = .host c :=
  hi.trans (congrArg _ (cmdWord_eq_iff.2 ⟨BitVec.eq_of_toNat_eq hop, hrsv, ha, hd⟩))

theorem exists_encode_of_wellFormed (h : (CmdFields.ofWord c).wellFormed = true) : ∃ i, encode i = .host c := by
  rw [CmdFields.ofWord_eq, CmdFields.wellFormed] at h
  split at h
  · cases h
  · next fmt hfmt =>
    simp only [Bool.and_eq_true, Bool.or_eq_true, beq_iff_eq] at h
    obtain ⟨⟨hrsv, ha⟩, hd⟩ := h
    unfold Format.ofOp at hfmt
    split at hfmt <;> cases hfmt <;> simp only [Format.usesA, Format.usesD, Bool.false_eq_true, false_or] at ha hd
    case h_1 hop => exact ⟨.crcGen _, encode_eq_of_fields rfl hrsv hop ha rfl⟩
    case h_2 hop => exact ⟨.crcChk _ _, encode_eq_of_fields rfl hrsv hop rfl rfl⟩
    case h_3 hop => exact ⟨.txStart _ _, encode_eq_of_fields rfl hrsv hop rfl rfl⟩
    case h_4 hop => exact ⟨.txArg _, encode_eq_of_fields rfl hrsv hop ha rfl⟩
    case h_5 hop => exact ⟨.txAbort, encode_eq_of_fields rfl hrsv hop ha hd⟩
    case h_6 hop => exact ⟨.txStat, encode_eq_of_fields rfl hrsv hop ha hd⟩
    case h_7 hop => exact ⟨.rxStart _, encode_eq_of_fields rfl hrsv hop rfl hd⟩
    case h_8 hop => exact ⟨.rxResult, encode_eq_of_fields rfl hrsv hop ha hd⟩
    case h_9 hop => exact ⟨.rxRdword _, encode_eq_of_fields rfl hrsv hop rfl hd⟩
    case h_10 hop => exact ⟨.rxClear, encode_eq_of_fields rfl hrsv hop ha hd⟩
    case h_11 hop => exact ⟨.rxStat, encode_eq_of_fields rfl hrsv hop ha hd⟩

theorem decodeCmd_eq_ok_iff : decodeCmd c = .ok i ↔ encode i = .host c := by
  constructor
  · intro h
    obtain ⟨j, hj⟩ := exists_encode_of_wellFormed (wellFormed_of_decodeCmd h)
    have hij : i = j := Except.ok.inj (h.symm.trans (decodeCmd_of_encode hj))
    exact hij ▸ hj
  · exact decodeCmd_of_encode

theorem decodeCmd_eq_ok_iff_of_encode {c' : Word32} (h : encode i = .host c') : decodeCmd c = .ok i ↔ c' = c := by
  rw [decodeCmd_eq_ok_iff, h, Presented.host.injEq]

theorem exists_decodeCmd_eq_error_iff :
    (∃ e, decodeCmd c = .error e) ↔ (CmdFields.ofWord c).wellFormed = false := by
  cases h : decodeCmd c with
  | ok i => simp [wellFormed_of_decodeCmd h]
  | error e =>
    have hnot : (CmdFields.ofWord c).wellFormed ≠ true := fun hw => by
      obtain ⟨i, hi⟩ := exists_encode_of_wellFormed hw
      cases h.symm.trans (decodeCmd_of_encode hi)
    simpa using hnot

theorem isHost_of_encode_eq_host (h : encode i = .host c) : i.isHost = true := by
  cases i
  case txByte => cases h
  case rxByte => cases h
  case rxEnd => cases h
  all_goals rfl

end

/-! ## R items (R82) -/

section
variable (it : Item)

theorem item_and_endBit : it &&& 0x100 = if it.getLsbD 8 then 0x100 else 0x000 := BitVec.and_twoPow it 8

theorem exists_decode_rxByte_iff : (∃ b, decode (.rItem it) = .ok (.rxByte b)) ↔ it &&& 0x100 = 0x000 := by
  rw [item_and_endBit, decode, decodeRItem]
  cases it.getLsbD 8 <;> simp

theorem exists_decode_rxEnd_iff : (∃ d, decode (.rItem it) = .ok (.rxEnd d)) ↔ it &&& 0x100 = 0x100 := by
  rw [item_and_endBit, decode, decodeRItem]
  cases it.getLsbD 8 <;> simp

end

/-- Settles O2: a word decodes to an operation when it is the word of its encoding, and the words of a format are those
its mask and match select (`cmdWord_formatN_iff` and its companions); an R item is selected by its bit 8. -/
theorem decodeSelectsByMaskAndMatch : Obligations.DecodeSelectsByMaskAndMatch := by
  refine ⟨fun c => ⟨?crcGen, ?crcChk, ?txStart, ?txArg, ?txAbort, ?txStat, ?rxStart, ?rxResult, ?rxRdword, ?rxClear,
    ?rxStat⟩, fun c i h => isHost_of_encode_eq_host (decodeCmd_eq_ok_iff.1 h),
    fun it => ⟨exists_decode_rxByte_iff it, exists_decode_rxEnd_iff it⟩, rfl⟩
  case crcGen => exact (exists_congr fun w => decodeCmd_eq_ok_iff_of_encode rfl).trans (cmdWord_formatW_iff 0x1 c)
  case crcChk => exact (exists₂_congr fun k w => decodeCmd_eq_ok_iff_of_encode rfl).trans (cmdWord_formatAW_iff 0x2 c)
  case txStart => exact (exists₂_congr fun n op => decodeCmd_eq_ok_iff_of_encode rfl).trans (cmdWord_formatAW_iff 0x4 c)
  case txArg => exact (exists_congr fun w => decodeCmd_eq_ok_iff_of_encode rfl).trans (cmdWord_formatW_iff 0x5 c)
  case txAbort => exact (decodeCmd_eq_ok_iff_of_encode rfl).trans (cmdWord_formatN_iff 0x6 c)
  case txStat => exact (decodeCmd_eq_ok_iff_of_encode rfl).trans (cmdWord_formatN_iff 0x7 c)
  case rxStart => exact (exists_congr fun n => decodeCmd_eq_ok_iff_of_encode rfl).trans (cmdWord_formatA_iff 0x8 c)
  case rxResult => exact (decodeCmd_eq_ok_iff_of_encode rfl).trans (cmdWord_formatN_iff 0x9 c)
  case rxRdword => exact (exists_congr fun k => decodeCmd_eq_ok_iff_of_encode rfl).trans (cmdWord_formatA_iff 0xA c)
  case rxClear => exact (decodeCmd_eq_ok_iff_of_encode rfl).trans (cmdWord_formatN_iff 0xB c)
  case rxStat => exact (decodeCmd_eq_ok_iff_of_encode rfl).trans (cmdWord_formatN_iff 0xC c)

/-! ## The step of the host (R80) -/

section
variable {s : State} {ts : List Turn} {c : Word32} {cs : List Word32}

theorem fetch_host (hts : s.ports.turns = .host :: ts) (hcs : s.ports.cmds = c :: cs) :
    fetch s = (Action.ofCmd c, { s with ports := { s.ports with turns := ts, cmds := cs } }) := by
  simp [fetch, hts, hcs, State.afterTurn, State.takeCmd]

theorem step_host (hts : s.ports.turns = .host :: ts) (hcs : s.ports.cmds = c :: cs) :
    step s = perform (Action.ofCmd c) { s with ports := { s.ports with turns := ts, cmds := cs } } := by
  rw [step, fetch_host hts hcs]

theorem perform_ofCmd_of_error {e : DecodeError} (h : decodeCmd c = .error e) (s : State) :
    perform (Action.ofCmd c) s = .next (s.giveResponse 0x10000000) := by
  rw [Action.ofCmd, decode, h]
  rfl

end

/-- Settles O3: the words that decode, the well-formed words and the encoded ones are the same; the step of an illegal
word is its response. -/
theorem illegalWordsAreRefusedUnchanged : Obligations.IllegalWordsAreRefusedUnchanged := by
  refine ⟨fun c => exists_decodeCmd_eq_error_iff, by decide, by decide,
    fun n => ⟨_, rfl, encodesWellFormed (.rxStart n) _ rfl⟩, fun k => ⟨_, rfl, encodesWellFormed (.rxRdword k) _ rfl⟩, ?_⟩
  intro s ts c cs hts hcs hbad
  obtain ⟨e, he⟩ := exists_decodeCmd_eq_error_iff.2 hbad
  rw [step_host hts hcs, perform_ofCmd_of_error he]
  rfl

end Sys2Proof

/-! # The CRC unit's operations (40_crc8.md) -/

namespace Sys2Proof.Machine

/-! ## The response word of a command that succeeds (R76, R77): the code of `OK` is 0 -/

theorem rspWord_ok_zero (v : Word) : rspWord .ok 0 v = (0 : Word) ++ v := rfl

theorem zext16_eq_append (b : Byte) : zext16 b = (0 : Byte) ++ b := BitVec.setWidth_eq_append (by decide)

theorem rspWord_ok_zext16 (b : Byte) : rspWord .ok 0 (zext16 b) = (0 : BitVec 24) ++ b := by
  rw [rspWord_ok_zero, zext16_eq_append]
  exact BitVec.append_assoc' (x₁ := (0 : Word)) ..

/-! ## CRC.GEN (R110) -/

theorem encode_crcGen (w : Word) : encode (.crcGen w) = .host ((0x1000 : Word) ++ w) := rfl

theorem exec_crcGen (w : Word) (s : State) :
    exec (.crcGen w) s = .next (s.giveResponse ((0 : BitVec 24) ++ crc8Word w)) := by
  rw [← rspWord_ok_zext16]
  rfl

/-- Settles O18: the word is `cmdWord` at format W (`encode_crcGen`), the answer is a response of `OK` whose value is a
byte extended by zeros (`exec_crcGen`); the corner cases of R110 and the word 0xBEEF are evaluated. -/
theorem crcGenAnswersTheChecksum : Obligations.CrcGenAnswersTheChecksum :=
  ⟨encode_crcGen, exec_crcGen, by decide +kernel⟩

end Sys2Proof.Machine

/-! # The TX unit's operations (41_tx_encoder.md) -/

namespace Sys2Proof.Machine

/-! ## The answers of TX.START, TX.ARG and TX.ABORT (R76, R77): the code of `E_STATE` is 2 -/

section
variable (s : State)

theorem respond_ok_zero : respond .ok 0 0 s = .next (s.giveResponse 0x00000000) := rfl

theorem raise_eState : raise .eState s = .next (s.giveResponse 0x20000000) := rfl

end

/-! ## TX.START (R124) -/

section
variable {s : State} (n : Byte) (op : Word)

theorem encode_txStart : encode (.txStart n op) = .host ((0x40 : Byte) ++ n ++ op) := rfl

theorem exec_txStart_of_idle (h : s.tx.state = .idle) :
    exec (.txStart n op) s = .next ((s.withTx (txStarted n op s.tx)).giveResponse 0x00000000) := by
  rw [exec, execTxStart, if_pos h, respond_ok_zero]

theorem exec_txStart_of_ne_idle (h : s.tx.state ≠ .idle) :
    exec (.txStart n op) s = .next (s.giveResponse 0x20000000) := by
  rw [exec, execTxStart, if_neg h, raise_eState]

end

/-! ## TX.ARG (R125) -/

section
variable {s : State} (w : Word)

theorem encode_txArg : encode (.txArg w) = .host ((0x5000 : Word) ++ w) := rfl

theorem exec_txArg_of_wait (h : s.tx.state = .wait) :
    exec (.txArg w) s = .next ((s.withTx (txArgTaken w s.tx)).giveResponse 0x00000000) := by
  rw [exec, execTxArg, if_pos h, respond_ok_zero]

theorem exec_txArg_of_ne_wait (h : s.tx.state ≠ .wait) :
    exec (.txArg w) s = .next (s.giveResponse 0x20000000) := by
  rw [exec, execTxArg, if_neg h, raise_eState]

end

section
variable {tx : TxRegs}

/-- In `T_WAIT` an argument is outstanding (R27(c)), so the subtraction of R125 does not wrap. -/
theorem TxInv.rem_sub_one_add_one (h : TxInv tx) (hs : tx.state = .wait) : (tx.rem - 1).toNat + 1 = tx.rem.toNat := by
  obtain ⟨-, hwait, -⟩ := h
  have hrem : (1 : Byte) ≤ tx.rem := hwait hs
  have hpos : 1 ≤ tx.rem.toNat := BitVec.le_def.1 hrem
  have hsub : (tx.rem - 1).toNat = tx.rem.toNat - 1 := BitVec.toNat_sub_of_le hrem
  omega

/-! ## What the T port offers (R126) -/

theorem txOffer_of_idle (h : tx.state = .idle) : txOffer tx = none := by rw [txOffer, h]

theorem txOffer_of_oph (h : tx.state = .oph) : txOffer tx = some (tItem false (hi tx.opcode)) := by rw [txOffer, h]

theorem txOffer_of_opl (h : tx.state = .opl) : txOffer tx = some (tItem (tx.rem == 0) (lo tx.opcode)) := by
  rw [txOffer, h]

theorem txOffer_of_wait (h : tx.state = .wait) : txOffer tx = none := by rw [txOffer, h]

theorem txOffer_of_ah (h : tx.state = .ah) : txOffer tx = some (tItem false (hi tx.word)) := by rw [txOffer, h]

theorem txOffer_of_al (h : tx.state = .al) : txOffer tx = some (tItem false (lo tx.word)) := by rw [txOffer, h]

theorem txOffer_of_ac (h : tx.state = .ac) : txOffer tx = some (tItem (tx.rem == 0) tx.crc) := by rw [txOffer, h]

theorem txValid_iff : txValid tx = true ↔ tx.state ≠ .idle ∧ tx.state ≠ .wait := by
  cases h : tx.state with
  | idle => simp [txValid, txOffer_of_idle h]
  | oph => simp [txValid, txOffer_of_oph h]
  | opl => simp [txValid, txOffer_of_opl h]
  | wait => simp [txValid, txOffer_of_wait h]
  | ah => simp [txValid, txOffer_of_ah h]
  | al => simp [txValid, txOffer_of_al h]
  | ac => simp [txValid, txOffer_of_ac h]

/-! ## Where a T transfer leads (R127) -/

theorem txNextState_of_oph (h : tx.state = .oph) : txNextState tx = .opl := by rw [txNextState, h]

theorem txNextState_of_opl (h : tx.state = .opl) : txNextState tx = if tx.rem = 0 then .idle else .wait := by
  rw [txNextState, h, txAfterPart]

theorem txNextState_of_ah (h : tx.state = .ah) : txNextState tx = .al := by rw [txNextState, h]

theorem txNextState_of_al (h : tx.state = .al) : txNextState tx = .ac := by rw [txNextState, h]

theorem txNextState_of_ac (h : tx.state = .ac) : txNextState tx = if tx.rem = 0 then .idle else .wait := by
  rw [txNextState, h, txAfterPart]

end

section
variable {s t : State}

theorem exec_txByte_of_offer {it : Item} {st : TxState} (ho : txOffer s.tx = some it)
    (hn : txNextState s.tx = st) :
    exec .txByte s = .next ((s.withTx { s.tx with state := st }).giveItem it) := by
  simp only [exec, execTxByte, ho, hn]

/-! ## TX.ABORT (R128) -/

/-- A unit that is idle already has the registers that TX.ABORT leaves (R27(f), R128). -/
theorem TxInv.aborted_eq_self {tx : TxRegs} (h : TxInv tx) (hs : tx.state = .idle) :
    { tx with state := .idle, rem := 0 } = tx := by
  obtain ⟨hidle, -, -⟩ := h
  rw [← hs, ← hidle hs]

theorem exec_txAbort (s : State) :
    exec .txAbort s = .next ((s.withTx { s.tx with state := .idle, rem := 0 }).giveResponse 0x00000000) := rfl

theorem offer_and_tItems_of_txAbort (h : exec .txAbort s = .next t) :
    txOffer t.tx = none ∧ t.ports.tItems = s.ports.tItems := by
  obtain rfl := respond_eq_next.1 h
  exact ⟨txOffer_of_idle rfl, rfl⟩

theorem exec_txAbort_of_idle (hinv : s.Inv) (hs : s.tx.state = .idle) :
    exec .txAbort s = .next (s.giveResponse 0x00000000) := by
  obtain ⟨-, htx, -⟩ := hinv
  rw [exec_txAbort, htx.aborted_eq_self hs]
  rfl

/-! ## TX.STAT (R129, R22) -/

theorem rspWord_ok_setWidth (x : Byte) (c : BitVec 3) :
    rspWord .ok x (c.setWidth 16) = (0 : Byte) ++ x ++ (0 : BitVec 13) ++ c := by
  have hv : c.setWidth 16 = (0 : BitVec 13) ++ c := BitVec.setWidth_eq_append (by decide)
  rw [rspWord, hv]
  exact BitVec.append_assoc' (x₁ := (0 : Byte) ++ x) ..

theorem exec_txStat (s : State) :
    exec .txStat s =
      .next (s.giveResponse ((0 : Byte) ++ s.tx.rem ++ (0 : BitVec 13) ++ s.tx.state.code)) := by
  rw [← rspWord_ok_setWidth]
  rfl

end

/-- Settles O20: `exec` in `T_IDLE` and outside it (`exec_txStart_of_idle`, `exec_txStart_of_ne_idle`); the unit then
stands in `T_OPH`, where `hi(tx_opcode)` is on offer. -/
theorem txStartBeginsAFrame : Obligations.TxStartBeginsAFrame :=
  ⟨encode_txStart, fun n op _ h => ⟨exec_txStart_of_idle n op h, txOffer_of_oph rfl⟩,
    fun n op _ h => exec_txStart_of_ne_idle n op h⟩

/-- Settles O21: `exec` in `T_WAIT` and outside it; the subtraction does not wrap as R27(c) holds in `T_WAIT`. -/
theorem txArgSuppliesTheNextWord : Obligations.TxArgSuppliesTheNextWord :=
  ⟨encode_txArg, fun w _ h => exec_txArg_of_wait w h, fun _ ⟨_, htx, _⟩ h => htx.rem_sub_one_add_one h,
    fun w _ h => exec_txArg_of_ne_wait w h⟩

/-- Settles O22: the offer state by state. -/
theorem txPortOffersByState : Obligations.TxPortOffersByState := fun _ =>
  ⟨txOffer_of_idle, txOffer_of_oph, txOffer_of_opl, txOffer_of_wait, txOffer_of_ah, txOffer_of_al, txOffer_of_ac,
    txValid_iff⟩

/-- Settles O23: a T transfer gives out the offer and moves `tx_state` (`exec_txByte_of_offer`), state by state. -/
theorem txByteDeliversTheOffer : Obligations.TxByteDeliversTheOffer := fun _ _ ho =>
  ⟨fun h => exec_txByte_of_offer ho (txNextState_of_oph h), fun h => exec_txByte_of_offer ho (txNextState_of_opl h),
    fun h => exec_txByte_of_offer ho (txNextState_of_ah h), fun h => exec_txByte_of_offer ho (txNextState_of_al h),
    fun h => exec_txByte_of_offer ho (txNextState_of_ac h)⟩

/-- Settles O24: TX.ABORT is one equation in every state; an idle unit has the registers it leaves already. -/
theorem txAbortFreesTheUnit : Obligations.TxAbortFreesTheUnit :=
  ⟨rfl, exec_txAbort, fun _ _ => offer_and_tItems_of_txAbort, fun _ => exec_txAbort_of_idle⟩

/-- Settles O25: the answer is `tx_rem` beside the code of `tx_state` extended by zeros; the codes are those of R22. -/
theorem txStatShowsTheUnit : Obligations.TxStatShowsTheUnit := by
  refine ⟨rfl, fun s => ?_⟩
  rw [exec_txStat]
  cases s.tx.state <;> rfl

end Sys2Proof.Machine

/-! # The RX unit's operations (42_rx_decoder.md) -/

namespace Sys2Proof.Machine

/-! ## The refusals of the RX commands (R76, R77): the codes of `E_RANGE` and `E_LENGTH` are 3 and 5 -/

section
variable (s : State)

theorem raise_eRange : raise .eRange s = .next (s.giveResponse 0x30000000) := rfl

theorem raise_eLength : raise .eLength s = .next (s.giveResponse 0x50000000) := rfl

theorem raiseChecksum_eq (i : Byte) :
    raiseChecksum i s = .next (s.giveResponse ((0x40 : Byte) ++ i ++ (0 : Word))) := rfl

end

/-! ## RX.START (R155) -/

section
variable {s : State} {n : Byte}

theorem encode_rxStart (n : Byte) : encode (.rxStart n) = .host ((0x80 : Byte) ++ n ++ (0 : Word)) := rfl

theorem exec_rxStart_of_ne_idle (h : s.rx.state ≠ .idle) :
    exec (.rxStart n) s = .next (s.giveResponse 0x20000000) := by
  rw [exec, execRxStart, if_pos h, raise_eState]

theorem exec_rxStart_of_lt (h : s.rx.state = .idle) (hn : s.config.maxResp < n.toNat) :
    exec (.rxStart n) s = .next (s.giveResponse 0x30000000) := by
  rw [exec, execRxStart, if_neg (not_not_intro h), if_pos hn, raise_eRange]

theorem exec_rxStart_of_le (h : s.rx.state = .idle) (hn : n.toNat ≤ s.config.maxResp) :
    exec (.rxStart n) s = .next ((s.withRx (rxStarted n s.rx)).giveResponse 0x00000000) := by
  rw [exec, execRxStart, if_neg (not_not_intro h), if_neg (Nat.not_lt.2 hn), respond_ok_zero]

end

/-! ## RX.BYTE (R157) -/

section
variable {rx : RxRegs}

theorem rxBeyond_eq_false (ho : rx.overflow = false) (hw : rx.widx ≠ rx.expect) : rxBeyond rx = false := by
  simp [rxBeyond, ho, hw]

theorem noteMismatch_of_first (h : rx.cerr = false) : noteMismatch rx = { rx with cerr := true, cidx := rx.widx } := by
  rw [noteMismatch, h, if_neg Bool.false_ne_true]

theorem noteMismatch_of_later (h : rx.cerr = true) : noteMismatch rx = rx := by
  rw [noteMismatch, if_pos h]

end

section
variable {cfg : Config} {b : Byte} {rx : RxRegs}

theorem rxTake_of_beyond (h : rxBeyond rx = true) : rxTake cfg b rx = .ok (noteOver rx) := by
  rw [rxTake, if_pos h]

theorem rxTake_of_p0 (hb : rxBeyond rx = false) (hp : rx.phase = .p0) :
    rxTake cfg b rx = .ok { rx with hi := b, phase := .p1 } := by
  simp only [rxTake, hb, hp, Bool.false_eq_true, if_false]

theorem rxTake_of_p1 (hb : rxBeyond rx = false) (hp : rx.phase = .p1) :
    rxTake cfg b rx = .ok { rx with lo := b, phase := .p2 } := by
  simp only [rxTake, hb, hp, Bool.false_eq_true, if_false]

theorem rxTake_of_crc_eq (hb : rxBeyond rx = false) (hp : rx.phase = .p2) (hl : rx.widx.toNat < cfg.maxResp)
    (hc : crc8Word (mkWord rx.hi rx.lo) = b) :
    rxTake cfg b rx = .ok (nextGroup { rx with buf := Memory.put rx.widx.toNat (mkWord rx.hi rx.lo) rx.buf }) := by
  have hs := rxStore_good hb hp (beq_iff_eq.2 hc)
  simp only [rxTake, hb, hp, hs, writeEntry, hl, Bool.false_eq_true, if_false, if_true]

theorem rxTake_of_crc_ne (hb : rxBeyond rx = false) (hp : rx.phase = .p2)
    (hc : crc8Word (mkWord rx.hi rx.lo) ≠ b) : rxTake cfg b rx = .ok (nextGroup (noteMismatch rx)) := by
  have hs := rxStore_bad hb hp (beq_eq_false_iff_ne.2 hc)
  simp only [rxTake, hb, hp, hs, Bool.false_eq_true, if_false]

end

section
variable {s : State} {b : Byte} {rx : RxRegs}

theorem encode_rxByte (b : Byte) : encode (.rxByte b) = .rItem ((0 : BitVec 1) ++ b) := rfl

theorem exec_rxByte_of_rxTake (ha : s.rx.state = .active) (ht : rxTake s.config b s.rx = .ok rx) :
    exec (.rxByte b) s = .next (s.withRx rx) := by
  simp only [exec, execRxByte, (rxReady_iff _).2 ha, ht, if_true]

/-- A failing group advances `rx_widx`, and is noted if it is the first. -/
theorem exec_rxByte_of_crc_ne (ha : s.rx.state = .active) (hb : rxBeyond s.rx = false) (hp : s.rx.phase = .p2)
    (hc : crc8Word (mkWord s.rx.hi s.rx.lo) ≠ b) :
    exec (.rxByte b) s = .next (s.withRx (nextGroup (noteMismatch s.rx))) :=
  exec_rxByte_of_rxTake ha (rxTake_of_crc_ne hb hp hc)

/-! ## RX.END (R158) -/

theorem encode_rxEnd (d : Byte) : encode (.rxEnd d) = .rItem ((1 : BitVec 1) ++ d) := rfl

theorem lengthOk_iff : lengthOk rx = true ↔ rx.overflow = false ∧ rx.widx = rx.expect ∧ rx.phase = .p0 := by
  simp [lengthOk, and_assoc]

theorem verdict_eq : verdict rx =
    if ¬ (rx.overflow = false ∧ rx.widx = rx.expect ∧ rx.phase = .p0) then .length
    else if rx.cerr = true then .checksum else .ok := by
  simp only [verdict, Bool.not_eq_true', ← Bool.not_eq_true, lengthOk_iff]

theorem exec_rxEnd_of_active (d : Byte) (h : s.rx.state = .active) :
    exec (.rxEnd d) s = .next (s.withRx { s.rx with state := .done, res := verdict s.rx }) := by
  rw [exec, execRxEnd, if_pos ((rxReady_iff _).2 h)]

/-! ## RX.RESULT (R159) -/

theorem exec_rxResult_of_ne_done (h : s.rx.state ≠ .done) : exec .rxResult s = .next (s.giveResponse 0x20000000) := by
  rw [exec, execRxResult, if_pos h, raise_eState]

theorem exec_rxResult_of_ok (h : s.rx.state = .done) (hr : s.rx.res = .ok) :
    exec .rxResult s = .next (s.giveResponse ((0 : BitVec 24) ++ s.rx.expect)) := by
  rw [exec, execRxResult, if_neg (not_not_intro h), hr, ← rspWord_ok_zext16]
  rfl

theorem exec_rxResult_of_checksum (h : s.rx.state = .done) (hr : s.rx.res = .checksum) :
    exec .rxResult s = .next (s.giveResponse ((0x40 : Byte) ++ s.rx.cidx ++ (0 : Word))) := by
  rw [exec, execRxResult, if_neg (not_not_intro h), hr, raiseChecksum_eq]

theorem exec_rxResult_of_length (h : s.rx.state = .done) (hr : s.rx.res = .length) :
    exec .rxResult s = .next (s.giveResponse 0x50000000) := by
  rw [exec, execRxResult, if_neg (not_not_intro h), hr, raise_eLength]

/-! ## RX.CLEAR (R161) -/

/-- A unit that is idle already has the registers that RX.CLEAR leaves (R37(h)). -/
theorem RxIdleClear.cleared_eq_self (h : RxIdleClear rx) (hs : rx.state = .idle) :
    { clearFrame rx with state := .idle } = rx := by
  obtain ⟨state, expect, widx, phase, hi, lo, overflow, cerr, cidx, res, buf⟩ := rx
  obtain ⟨rfl, rfl, rfl, rfl, rfl, rfl, rfl, rfl⟩ := h
  obtain rfl := hs
  rfl

theorem exec_rxClear (s : State) :
    exec .rxClear s = .next ((s.withRx { clearFrame s.rx with state := .idle }).giveResponse 0x00000000) := rfl

theorem exec_rxClear_of_idle (hinv : s.Inv) (hs : s.rx.state = .idle) :
    exec .rxClear s = .next (s.giveResponse 0x00000000) := by
  obtain ⟨-, -, -, -, -, -, -, hidle, -⟩ := hinv
  rw [exec_rxClear, RxIdleClear.cleared_eq_self (hidle hs) hs]
  rfl

theorem rItems_of_rxClear {t : State} (h : exec .rxClear s = .next t) : t.ports.rItems = s.ports.rItems := by
  obtain rfl := respond_eq_next.1 h
  rfl

/-! ## RX.STAT (R162) -/

theorem rspWord_ok (x : Byte) (v : Word) : rspWord .ok x v = (0 : Byte) ++ x ++ v := rfl

theorem rspWord_ok_rxStatus (x : Byte) (rx : RxRegs) :
    rspWord .ok x (rxStatus rx) = (0 : Byte) ++ x ++ rx.expect ++ rx.res.code ++ BitVec.ofBool rx.cerr ++
      BitVec.ofBool rx.overflow ++ rx.phase.code ++ rx.state.code := by
  simp only [rspWord_ok, rxStatus, BitVec.append_assoc, BitVec.cast_eq]

theorem exec_rxStat (s : State) :
    exec .rxStat s = .next (s.giveResponse ((0 : Byte) ++ s.rx.widx ++ s.rx.expect ++ s.rx.res.code ++
      BitVec.ofBool s.rx.cerr ++ BitVec.ofBool s.rx.overflow ++ s.rx.phase.code ++ s.rx.state.code)) := by
  rw [← rspWord_ok_rxStatus]
  rfl

end

/-- Settles O30: `exec` outside `R_IDLE`, above `MAX_RESP`, and in the accepted case. -/
theorem rxStartBeginsAFrame : Obligations.RxStartBeginsAFrame :=
  ⟨encode_rxStart, fun _ _ h => exec_rxStart_of_ne_idle h, fun _ _ h hn => exec_rxStart_of_lt h hn,
    fun _ _ h hn => exec_rxStart_of_le h hn⟩

/-- Settles O31: the branches of `rxTake` one by one; the word of a good group is read back from `Memory.put`, which
leaves every other entry alone. -/
theorem rxByteTakesOneByte : Obligations.RxByteTakesOneByte := by
  refine ⟨encode_rxByte, fun b s ha => ⟨fun h => ?beyond, fun ho hw hp => ?first, fun ho hw hp => ?second,
    fun ho hw hp hl hc => ?good, fun ho hw hp hc hf => ?firstBad, fun ho hw hp hc hf => ?laterBad⟩⟩
  case beyond => exact exec_rxByte_of_rxTake ha (rxTake_of_beyond ((rxBeyond_iff _).2 h))
  case first => exact exec_rxByte_of_rxTake ha (rxTake_of_p0 (rxBeyond_eq_false ho hw) hp)
  case second => exact exec_rxByte_of_rxTake ha (rxTake_of_p1 (rxBeyond_eq_false ho hw) hp)
  case good =>
    exact ⟨_, exec_rxByte_of_rxTake ha (rxTake_of_crc_eq (rxBeyond_eq_false ho hw) hp hl hc),
      Memory.find_put_same .., fun k hk => Memory.find_put_other hk ..⟩
  case firstBad =>
    rw [exec_rxByte_of_crc_ne ha (rxBeyond_eq_false ho hw) hp hc, noteMismatch_of_first hf]
    rfl
  case laterBad =>
    rw [exec_rxByte_of_crc_ne ha (rxBeyond_eq_false ho hw) hp hc, noteMismatch_of_later hf]
    rfl

/-- Settles O32: the end mark writes the verdict, which is that of R158 (`verdict_eq`). -/
theorem rxEndFixesTheVerdict : Obligations.RxEndFixesTheVerdict := by
  refine ⟨encode_rxEnd, fun d s h => ?_⟩
  rw [exec_rxEnd_of_active d h, verdict_eq]
  rfl

/-- Settles O33: `exec` outside `R_DONE`, and in `R_DONE` verdict by verdict. -/
theorem rxResultReadsTheVerdict : Obligations.RxResultReadsTheVerdict :=
  ⟨rfl, fun _ => ⟨exec_rxResult_of_ne_done, exec_rxResult_of_ok, exec_rxResult_of_checksum, exec_rxResult_of_length⟩⟩

/-- Settles O35: RX.CLEAR is one equation in every state; an idle unit has the registers it leaves already. -/
theorem rxClearFreesTheUnit : Obligations.RxClearFreesTheUnit :=
  ⟨rfl, exec_rxClear, fun _ => exec_rxClear_of_idle, fun _ _ => rItems_of_rxClear⟩

/-- Settles O36: the answer is `rx_widx` beside the packed status, whose codes are those of R28, R31 and R35. -/
theorem rxStatShowsTheUnit : Obligations.RxStatShowsTheUnit :=
  ⟨rfl, exec_rxStat⟩

end Sys2Proof.Machine

/-! # What is presented at a port, and the operation it performs (30_encoding.md, 20_memory.md) -/

namespace Sys2Proof

open Sys2Proof.Machine Sys2Proof.Claims

/-! ## Decoding and encoding at the three ports (R79, R81, R82) -/

section
variable (i : Instr) (it : Item) (e : Bool) (b : Byte)

theorem getLsbD_rItemOf (k : Nat) : (rItemOf e b).getLsbD k = if k < 8 then b.getLsbD k else (k - 8 = 0 && e) := by
  simp only [rItemOf, BitVec.getLsbD_append, BitVec.getLsbD_ofBool]

theorem endBit_rItemOf : (rItemOf e b).getLsbD 8 = e := by
  simp only [getLsbD_rItemOf]
  simp

theorem data_rItemOf : (rItemOf e b).extractLsb' 0 8 = b := by
  apply BitVec.eq_of_getLsbD_eq
  intro k hk
  simp only [BitVec.getLsbD_extractLsb', getLsbD_rItemOf]
  simp [hk]

theorem rItemOf_fields : rItemOf (it.getLsbD 8) (it.extractLsb' 0 8) = it := by
  apply BitVec.eq_of_getLsbD_eq
  intro k hk
  by_cases h8 : k < 8
  · rw [getLsbD_rItemOf, if_pos h8, BitVec.getLsbD_extractLsb', decide_eq_true h8, Bool.true_and, Nat.zero_add]
  · obtain rfl : k = 8 := by omega
    exact endBit_rItemOf _ _

theorem decode_rItemOf : decodeRItem (rItemOf e b) = if e then .rxEnd b else .rxByte b := by
  rw [decodeRItem, endBit_rItemOf, data_rItemOf]

theorem encode_decodeRItem : encode (decodeRItem it) = .rItem it := by
  unfold decodeRItem
  split
  · next he => rw [encode, ← he, rItemOf_fields]
  · next he => rw [encode, ← Bool.eq_false_iff.2 he, rItemOf_fields]

theorem isHost_decodeRItem : (decodeRItem it).isHost = false := by
  unfold decodeRItem
  split <;> rfl

theorem part_decodeRItem : (decodeRItem it).part = .rx := by
  unfold decodeRItem
  split <;> rfl

theorem decode_encode : decode (encode i) = .ok i := by
  cases hp : encode i with
  | host c => exact decodeCmd_of_encode hp
  | tReady =>
    obtain rfl : i = .txByte := by cases i <;> cases hp; rfl
    rfl
  | rItem it =>
    cases i <;> cases hp
    · exact congrArg Except.ok (decode_rItemOf false _)
    · exact congrArg Except.ok (decode_rItemOf true _)

variable {i} in
theorem encode_of_decode {p : Presented} (h : decode p = .ok i) : encode i = p := by
  cases p with
  | host c => exact decodeCmd_eq_ok_iff.1 h
  | tReady => cases h; rfl
  | rItem it => cases h; exact encode_decodeRItem it

end

/-- Settles O1: the command words by `decodeCmd_eq_ok_iff`, the R items by their end bit and their data byte, and the T
port, where there is one operation. -/
theorem decodeAndEncodeAgree : Obligations.DecodeAndEncodeAgree :=
  ⟨decode_encode, fun _ _ h => encode_of_decode h⟩

/-- Settles O4: each command word is the word of the operation's encoding, each R item the one of its fields. -/
theorem wordsDecodeAsWritten : Obligations.WordsDecodeAsWritten :=
  ⟨decode_encode (.crcGen 0xBEEF), decode_encode (.crcChk 0x92 0xBEEF), decode_encode (.txStart 1 0x1234),
    decode_encode .txStat, decode_encode (.rxRdword 1), decode_encode (.rxByte 0xBE), decode_encode (.rxEnd 0)⟩

/-! ## One step, by the agent whose turn it is (R10, R51 to R53) -/

section
variable {s : State} {ts : List Turn}

theorem txValid_of_offering (h : Offering s.tx.state) : txValid s.tx = true := by
  rw [txValid_iff]
  rcases h with h | h | h | h | h <;> simp [h]

theorem step_of_no_turn (hts : s.ports.turns = []) : step s = .next s := by
  simp [step, fetch, hts, perform]

theorem step_reset (hts : s.ports.turns = .reset :: ts) :
    step s = .next (resetBlock { s with ports := { s.ports with turns := ts } }) := by
  simp [step, fetch, hts, perform, State.afterTurn]

theorem step_host_run {c : Word32} {cs : List Word32} {i : Instr} (hts : s.ports.turns = .host :: ts)
    (hcs : s.ports.cmds = c :: cs) (hi : decode (.host c) = .ok i) :
    step s = exec i { s with ports := { s.ports with turns := ts, cmds := cs } } := by
  rw [step_host hts hcs, Action.ofCmd, hi, perform]

theorem step_host_of_no_cmd (hts : s.ports.turns = .host :: ts) (hcs : s.ports.cmds = []) :
    step s = .next { s with ports := { s.ports with turns := ts } } := by
  simp [step, fetch, hts, hcs, perform, State.afterTurn]

theorem step_t_of_valid (hts : s.ports.turns = .t :: ts) (hv : txValid s.tx = true) :
    step s = exec .txByte { s with ports := { s.ports with turns := ts } } := by
  simp [step, fetch, hts, hv, perform, State.afterTurn]

theorem step_t_of_not_valid (hts : s.ports.turns = .t :: ts) (hv : txValid s.tx = false) :
    step s = .next { s with ports := { s.ports with turns := ts } } := by
  simp [step, fetch, hts, hv, perform, State.afterTurn]

theorem step_r_of_active {it : Item} {its : List Item} (hts : s.ports.turns = .r :: ts)
    (his : s.ports.rItems = it :: its) (ha : s.rx.state = .active) :
    step s = exec (decodeRItem it) { s with ports := { s.ports with turns := ts, rItems := its } } := by
  simp [step, fetch, hts, his, rxReady_iff, ha, perform, State.afterTurn, State.takeRItem]

theorem step_r_of_no_item (hts : s.ports.turns = .r :: ts) (his : s.ports.rItems = []) :
    step s = .next { s with ports := { s.ports with turns := ts } } := by
  simp [step, fetch, hts, his, perform, State.afterTurn]

theorem step_r_of_not_active (hts : s.ports.turns = .r :: ts) (ha : s.rx.state ≠ .active) :
    step s = .next { s with ports := { s.ports with turns := ts } } := by
  cases his : s.ports.rItems with
  | nil => exact step_r_of_no_item hts his
  | cons it its => simp [step, fetch, hts, his, rxReady_iff, ha, perform, State.afterTurn]

theorem exec_txByte_of_not_offered (h : s.tx.state = .idle ∨ s.tx.state = .wait) : exec .txByte s = .next s := by
  have ho : txOffer s.tx = none := h.elim txOffer_of_idle txOffer_of_wait
  simp only [exec, execTxByte, ho]

theorem exec_rxByte_of_not_active (b : Byte) (h : s.rx.state ≠ .active) : exec (.rxByte b) s = .next s := by
  rw [exec, execRxByte, if_neg (mt (rxReady_iff _).1 h)]

theorem exec_rxEnd_of_not_active (d : Byte) (h : s.rx.state ≠ .active) : exec (.rxEnd d) s = .next s := by
  rw [exec, execRxEnd, if_neg (mt (rxReady_iff _).1 h)]

theorem txValid_eq_false (h : s.tx.state = .idle ∨ s.tx.state = .wait) : txValid s.tx = false := by
  rw [txValid, h.elim txOffer_of_idle txOffer_of_wait, Option.isSome_none]

end

/-- Settles O5: the step of each agent's turn. -/
theorem stepRunsTheDecodedOperation : Obligations.StepRunsTheDecodedOperation := by
  refine ⟨fun s ts c cs i => step_host_run, fun s ts hts ho => step_t_of_valid hts (txValid_of_offering ho),
    fun s ts it its i hts his ha hi => ?_⟩
  cases hi
  exact step_r_of_active hts his ha

/-- Settles O6: the idle step of each agent's turn. -/
theorem portsWaitUntouched : Obligations.PortsWaitUntouched :=
  ⟨fun _ _ => step_r_of_not_active, fun _ _ => step_r_of_no_item,
    fun _ _ hts h => step_t_of_not_valid hts (txValid_eq_false h), fun _ _ => step_host_of_no_cmd,
    fun _ => step_of_no_turn⟩

/-- Settles O7: each transfer's meaning tests its port first. -/
theorem disabledTransfersChangeNothing : Obligations.DisabledTransfersChangeNothing :=
  ⟨fun _ => exec_txByte_of_not_offered, fun _ b => exec_rxByte_of_not_active b, fun _ d => exec_rxEnd_of_not_active d⟩

/-- Settles O9: the step of a reset turn is `resetBlock`, from every state (`step_reset`). -/
theorem resetEdgeResetsAndNothingElse : Obligations.ResetEdgeResetsAndNothingElse := by
  refine ⟨fun e he => by rw [edgeTurns, if_pos he], fun s ts hts => ⟨_, step_reset hts, ?_⟩⟩
  exact ⟨rfl, rfl, rfl, rfl, rfl, rfl, rfl, rfl, rfl, rfl, RxRegs.find_buf_reset, rfl, rfl⟩

/-- Settles O10: TX.ABORT and RX.CLEAR are one equation each, in every state (`exec_txAbort`, `exec_rxClear`). -/
theorem resetActsAsAbortPlusClear : Obligations.ResetActsAsAbortPlusClear := by
  intro s
  refine ⟨_, runInstrs_cons_next.2 ⟨_, exec_txAbort s, runInstrs_cons (exec_rxClear _)⟩, ?_, rfl, rfl, rfl, rfl, rfl⟩
  simp

/-! ## Two steps on one clock edge (R65) -/

section
variable {s t u : State}

theorem core_run_succ_of_step (k : Nat) (h : step s = .next t) :
    Host.Core.run Sys2Proof.core (k + 1) s = Host.Core.run Sys2Proof.core k t := by
  have hs : Sys2Proof.core.step s = .next t := h
  simp only [Host.Core.run, hs]

theorem core_run_succ_of_fault {f : Fault} (k : Nat) (h : step s = .fault f) :
    Host.Core.run Sys2Proof.core (k + 1) s = .fault f := by
  have hs : Sys2Proof.core.step s = .fault f := h
  simp only [Host.Core.run, hs]

theorem core_run_two (h : step s = .next t) (h' : step t = .next u) : Host.Core.run Sys2Proof.core 2 s = .next u := by
  rw [core_run_succ_of_step 1 h, core_run_succ_of_step 0 h']
  rfl

/-- R65's first example: the CRC byte leaves first, so TX.ARG finds the unit in `T_WAIT`. -/
theorem edge_txArg {w : Word} {c : Word32} {cs : List Word32} {ts : List Turn} (hac : s.tx.state = .ac)
    (hrem : 1 ≤ s.tx.rem) (hc : encode (.txArg w) = .host c) (hcs : s.ports.cmds = c :: cs)
    (hts : s.ports.turns = .t :: .host :: ts) :
    ∃ t, Host.Core.run Sys2Proof.core 2 s = .next t ∧ t.tx.state = .ah ∧ t.tx.word = w ∧
      t.ports.tItems = s.ports.tItems ++ [(0 : BitVec 1) ++ s.tx.crc] ∧
      t.ports.responses = s.ports.responses ++ [0] := by
  have hne : s.tx.rem ≠ 0 := by
    rintro h0
    exact absurd (h0 ▸ hrem) (by decide)
  have hoffer : txOffer s.tx = some ((0 : BitVec 1) ++ s.tx.crc) := by
    rw [txOffer_of_ac hac, beq_eq_false_iff_ne.2 hne]
    rfl
  have hnext : txNextState s.tx = .wait := by rw [txNextState_of_ac hac, if_neg hne]
  have hvalid : txValid s.tx = true := by rw [txValid, hoffer, Option.isSome_some]
  obtain ⟨a, hstep, hwait, hcmds, hturns, hitems, hrsp⟩ : ∃ a, step s = .next a ∧ a.tx.state = .wait ∧
      a.ports.cmds = c :: cs ∧ a.ports.turns = .host :: ts ∧
      a.ports.tItems = s.ports.tItems ++ [(0 : BitVec 1) ++ s.tx.crc] ∧ a.ports.responses = s.ports.responses :=
    ⟨_, (step_t_of_valid hts hvalid).trans (exec_txByte_of_offer hoffer hnext), rfl, hcs, rfl, rfl, rfl⟩
  have hcmd := (step_host_run hturns hcmds (decodeCmd_of_encode hc)).trans (exec_txArg_of_wait w hwait)
  exact ⟨_, core_run_two hstep hcmd, rfl, rfl, hitems, congrArg (· ++ [0]) hrsp⟩

/-- What RX.RESULT answers on the edge of the end mark: the verdict, length before checksum (R158, R159). -/
theorem exec_rxResult_of_verdict (hd : s.rx.state = .done) (hv : s.rx.res = verdict s.rx) :
    exec .rxResult s = .next (s.giveResponse
      (if s.rx.overflow = true ∨ s.rx.widx ≠ s.rx.expect ∨ s.rx.phase ≠ .p0 then onlyStatus 5
       else if s.rx.cerr = true then (0x40 : Byte) ++ s.rx.cidx ++ (0 : Word)
       else (0 : BitVec 24) ++ s.rx.expect)) := by
  rw [verdict_eq] at hv
  by_cases hlen : s.rx.overflow = false ∧ s.rx.widx = s.rx.expect ∧ s.rx.phase = .p0
  · rw [if_neg (not_not_intro hlen)] at hv
    obtain ⟨ho, hw, hp⟩ := hlen
    rw [if_neg (by simp [ho, hw, hp])]
    split at hv
    · next hc => rw [if_pos hc, exec_rxResult_of_checksum hd hv]
    · next hc => rw [if_neg hc, exec_rxResult_of_ok hd hv]
  · rw [if_pos hlen] at hv
    rw [if_pos (by rwa [not_and_or, not_and_or, Bool.not_eq_false] at hlen), exec_rxResult_of_length hd hv]
    rfl

/-- R65's second example: the end mark is taken first, so RX.RESULT finds the verdict. -/
theorem edge_rxResult {d : Byte} {it : Item} {its : List Item} {c : Word32} {cs : List Word32} {ts : List Turn}
    (ha : s.rx.state = .active) (hit : encode (.rxEnd d) = .rItem it) (hits : s.ports.rItems = it :: its)
    (hc : encode .rxResult = .host c) (hcs : s.ports.cmds = c :: cs) (hts : s.ports.turns = .r :: .host :: ts) :
    ∃ t, Host.Core.run Sys2Proof.core 2 s = .next t ∧ t.rx.state = .done ∧
      t.ports.responses = s.ports.responses ++
        [if s.rx.overflow = true ∨ s.rx.widx ≠ s.rx.expect ∨ s.rx.phase ≠ .p0 then onlyStatus 5
         else if s.rx.cerr = true then (0x40 : Byte) ++ s.rx.cidx ++ (0 : Word)
         else (0 : BitVec 24) ++ s.rx.expect] := by
  have hdec : decodeRItem it = .rxEnd d := Except.ok.inj (hit ▸ decode_encode (.rxEnd d))
  obtain ⟨a, hstep, hrx, hcmds, hturns, hrsp⟩ : ∃ a, step s = .next a ∧
      a.rx = { s.rx with state := .done, res := verdict s.rx } ∧ a.ports.cmds = c :: cs ∧
      a.ports.turns = .host :: ts ∧ a.ports.responses = s.ports.responses := by
    rw [step_r_of_active hts hits ha, hdec]
    exact ⟨_, exec_rxEnd_of_active d ha, rfl, hcs, rfl, rfl⟩
  have hres : a.rx.res = verdict a.rx := by rw [hrx]; rfl
  have hcmd := (step_host_run hturns hcmds (decodeCmd_of_encode hc)).trans
    (exec_rxResult_of_verdict (by simp [hrx]) hres)
  refine ⟨_, core_run_two hstep hcmd, by simp [hrx], ?_⟩
  simp [hrx, hrsp]

end

/-- Settles O11: the order is `edgeTurns` itself; each example is two steps, the second from where the first leads. -/
theorem oneEdgeIsTransfersThenCommand : Obligations.OneEdgeIsTransfersThenCommand :=
  ⟨fun e he => by rw [edgeTurns, he, if_neg Bool.false_ne_true], fun _ _ _ _ _ => edge_txArg,
    fun _ _ _ _ _ _ _ => edge_rxResult⟩

/-! ## Operations waiting at the ports are performed in turn (R10) -/

section
variable {i : Instr} {is : List Instr} {s t : State}

theorem State.sameFor_presenting (p : Part) (is : List Instr) (s : State) : s.SameFor p (s.presenting is) :=
  ⟨rfl, fun _ => rfl, fun _ => rfl⟩

/-- What waits at the ports does not touch what an operation does. -/
theorem exec_presenting (is : List Instr) (h : exec i s = .next t) :
    exec i (s.presenting is) = .next (t.presenting is) := by
  obtain ⟨e, he, rfl⟩ := exists_hasEffect_eq_after h
  exact he.exec _ (State.sameFor_presenting _ is s)

theorem execRxRdword_next_or_fault (k : Byte) (s : State) :
    (∃ t, execRxRdword k s = .next t) ∨ ∃ f, ∀ s', s.SameFor .rx s' → execRxRdword k s' = .fault f := by
  by_cases hs : s.rx.state ≠ .done ∨ s.rx.res ≠ .ok
  · exact .inl ⟨_, by rw [execRxRdword, if_pos hs, raise_eState]⟩
  by_cases hk : s.rx.expect ≤ k
  · exact .inl ⟨_, by rw [execRxRdword, if_neg hs, if_pos hk, raise_eRange]⟩
  cases hread : readEntry s.config s.rx.buf k with
  | ok w => exact .inl ⟨_, by rw [execRxRdword, if_neg hs, if_neg hk, hread]; rfl⟩
  | error f =>
    exact .inr ⟨f, fun s' h => by rw [execRxRdword, h.config, h.rx rfl, if_neg hs, if_neg hk, hread]⟩

theorem execRxByte_next_or_fault (b : Byte) (s : State) :
    (∃ t, execRxByte b s = .next t) ∨ ∃ f, ∀ s', s.SameFor .rx s' → execRxByte b s' = .fault f := by
  by_cases ha : rxReady s.rx = true
  · cases htake : rxTake s.config b s.rx with
    | ok rx => exact .inl ⟨_, by rw [execRxByte, if_pos ha, htake]⟩
    | error f => exact .inr ⟨f, fun s' h => by rw [execRxByte, h.config, h.rx rfl, if_pos ha, htake]⟩
  · exact .inl ⟨_, by rw [execRxByte, if_neg ha]⟩

/-- Only RX.RDWORD and RX.BYTE can stop (log entries 5 and 6), and then they stop alike from all states that agree on
the RX unit. -/
theorem exec_next_or_fault (i : Instr) (s : State) :
    (∃ t, exec i s = .next t) ∨ ∃ f, ∀ s', s.SameFor i.part s' → exec i s' = .fault f := by
  cases i with
  | rxRdword k => exact execRxRdword_next_or_fault k s
  | rxByte b => exact execRxByte_next_or_fault b s
  | crcGen w => exact .inl (respond_completes ..)
  | crcChk c w => exact .inl (respond_completes ..)
  | txStart n op => exact .inl (execTxStart_completes s n op)
  | txArg w => exact .inl (execTxArg_completes s w)
  | txAbort => exact .inl (respond_completes ..)
  | txStat => exact .inl (respond_completes ..)
  | rxStart n => exact .inl (execRxStart_completes s n)
  | rxResult => exact .inl (execRxResult_completes s)
  | rxClear => exact .inl (respond_completes ..)
  | rxStat => exact .inl (respond_completes ..)
  | txByte => exact .inl (execTxByte_completes s)
  | rxEnd d => exact .inl (execRxEnd_completes d s)

/-- A step takes the first of the operations that wait: by decoding its word or its item, or by the T port. A T transfer
that is not on offer is no step, and `exec` of it changes nothing. -/
theorem step_presenting_cons (hr : i.isHost = false → i.part = .rx → s.rx.state = .active) :
    step (s.presenting (i :: is)) = exec i (s.presenting is) := by
  have hturns : (s.presenting (i :: is)).ports.turns = turnOf (encode i) :: (s.presenting is).ports.turns := rfl
  cases hp : encode i with
  | host c =>
    have hcmds : (s.presenting (i :: is)).ports.cmds = c :: (s.presenting is).ports.cmds := by
      simp [State.presenting, hp]
    rw [step_host_run (hp ▸ hturns) hcmds (decodeCmd_of_encode hp)]
    simp [State.presenting, hp]
  | tReady =>
    obtain rfl : i = .txByte := Except.ok.inj ((decode_encode i).symm.trans (congrArg decode hp))
    cases hv : txValid s.tx with
    | true => exact step_t_of_valid hturns hv
    | false =>
      have ho : txOffer s.tx = none := Option.not_isSome_iff_eq_none.1 (Bool.eq_false_iff.1 hv)
      have hexec : exec .txByte (s.presenting is) = .next (s.presenting is) := by
        simp only [exec, execTxByte, show (s.presenting is).tx = s.tx from rfl, ho]
      exact (step_t_of_not_valid hturns hv).trans hexec.symm
  | rItem it =>
    obtain rfl : i = decodeRItem it := Except.ok.inj ((decode_encode i).symm.trans (congrArg decode hp))
    have hitems : (s.presenting (decodeRItem it :: is)).ports.rItems = it :: (s.presenting is).ports.rItems := by
      simp [State.presenting, hp]
    have ha : s.rx.state = .active := hr (isHost_decodeRItem it) (part_decodeRItem it)
    rw [step_r_of_active (hp ▸ hturns) hitems ha]
    simp [State.presenting, hp]

theorem rTransfersReady_head (h : RTransfersReady (i :: is) s) (hi : i.isHost = false) (hp : i.part = .rx) :
    s.rx.state = .active :=
  h [] i is s rfl hi hp rfl

theorem rTransfersReady_tail (h : RTransfersReady (i :: is) s) (ht : exec i s = .next t) : RTransfersReady is t :=
  fun pre j post u he hj hp hu => h (i :: pre) j post u (congrArg (i :: ·) he) hj hp ((runInstrs_cons ht).trans hu)

theorem core_run_presenting (is : List Instr) (s : State) (h : RTransfersReady is s) :
    Host.Core.run Sys2Proof.core is.length (s.presenting is) = runInstrs is s := by
  induction is generalizing s with
  | nil => rfl
  | cons i is ih =>
    have hstep := step_presenting_cons (is := is) (rTransfersReady_head h)
    rcases exec_next_or_fault i s with ⟨t, ht⟩ | ⟨f, hf⟩
    · rw [exec_presenting is ht] at hstep
      rw [List.length_cons, core_run_succ_of_step _ hstep, runInstrs_cons ht, ih t (rTransfersReady_tail h ht)]
    · rw [hf _ (State.sameFor_presenting _ is s)] at hstep
      rw [runInstrs, hf s (.refl s _)]
      exact core_run_succ_of_fault _ hstep

end

/-- Settles O12, by induction on the operations: a step takes the first one (`step_presenting_cons`), which does what it
does from the state without the queues (`exec_presenting`). -/
theorem presentedOperationsArePerformed : Obligations.PresentedOperationsArePerformed := core_run_presenting

end Sys2Proof

/-! # The invariants of the block (10_state.md R27, R37) -/

namespace Sys2Proof.Machine

/-! ## The TX unit (R27) -/

section
variable {tx : TxRegs} {n : Byte} {op w : Word}

theorem TxInv.txStarted : TxInv (txStarted n op tx) := by
  simp [TxInv, Machine.txStarted]

theorem TxInv.txArgTaken : TxInv (txArgTaken w tx) := by
  simp [TxInv, Machine.txArgTaken]

theorem TxInv.aborted : TxInv { tx with state := .idle, rem := 0 } := by
  simp [TxInv]

/-- After the last byte of a part the unit is idle exactly when no argument remains (R127). -/
theorem TxInv.afterPart : TxInv { tx with state := if tx.rem = 0 then .idle else .wait } := by
  by_cases h0 : tx.rem = 0
  · simp [TxInv, h0]
  · have hpos : (1 : Byte) ≤ tx.rem := by bv_omega
    rw [if_neg h0]
    simpa [TxInv] using hpos

theorem TxInv.transferred (h : TxInv tx) (hv : (txOffer tx).isSome) : TxInv { tx with state := txNextState tx } := by
  obtain ⟨-, -, hcrc⟩ := h
  cases hs : tx.state with
  | idle => simp [txOffer_of_idle hs] at hv
  | oph => simp [TxInv, txNextState_of_oph hs]
  | opl => rw [txNextState_of_opl hs]; exact TxInv.afterPart
  | wait => simp [txOffer_of_wait hs] at hv
  | ah => simpa [TxInv, txNextState_of_ah hs] using hcrc (.inl hs)
  | al => simpa [TxInv, txNextState_of_al hs] using hcrc (.inr (.inl hs))
  | ac => rw [txNextState_of_ac hs]; exact TxInv.afterPart

end

/-! ## The RX unit (R37) -/

section
variable {cfg : Config} {rx rx' : RxRegs} {b n : Byte}

theorem rxInv_rxStarted (hn : n.toNat ≤ cfg.maxResp) : RxInv cfg (rxStarted n rx) := by
  simp [RxInv, RxBufInv, rxStarted, clearFrame, hn, BitVec.le_def]

theorem rxInv_cleared : RxInv cfg { clearFrame rx with state := .idle } := by
  simp [RxInv, RxIdleClear, RxBufInv, verdict, lengthOk, clearFrame]

/-- The end mark changes nothing the verdict looks at (R158). -/
theorem RxInv.ended (h : RxInv cfg rx) : RxInv cfg { rx with res := verdict rx, state := .done } := by
  obtain ⟨hrange, hphase, hover, hcidx, hcidx0, -, -, -, hbuf⟩ := h
  exact ⟨hrange, hphase, hover, hcidx, hcidx0, nofun, nofun, fun _ => rfl, hbuf⟩

theorem rxBeyond_eq_false_iff : rxBeyond rx = false ↔ rx.overflow = false ∧ rx.widx ≠ rx.expect := by
  simp [rxBeyond]

/-- A group that is not beyond the frame is counted without a wrap (R30). -/
theorem widx_succ_of_not_beyond (hle : rx.widx ≤ rx.expect) (hb : rxBeyond rx = false) :
    rx.widx.toNat < rx.expect.toNat ∧ (rx.widx + 1).toNat = rx.widx.toNat + 1 := by
  obtain ⟨-, hne⟩ := rxBeyond_eq_false_iff.1 hb
  constructor <;> bv_omega

theorem RxBufInv.nextGroup_put (h : RxBufInv rx) (hw : (rx.widx + 1).toNat = rx.widx.toNat + 1) (w : Word) :
    RxBufInv (nextGroup { rx with buf := Memory.put rx.widx.toNat w rx.buf }) := by
  obtain ⟨hwf, hlt, hheld⟩ := h
  refine ⟨Memory.put_wf _ _ _ hwf, fun e he => ?_, fun hc i hi => ?_⟩
  · rw [nextGroup_widx, hw]
    rcases Memory.mem_put he with rfl | he
    · exact Nat.lt_succ_self _
    · exact Nat.lt_succ_of_lt (hlt e he)
  · rw [nextGroup_widx, hw] at hi
    rw [nextGroup_buf, Memory.find_put]
    split
    · rfl
    · exact hheld hc i (by omega)

theorem RxBufInv.nextGroup_noteMismatch (h : RxBufInv rx) (hw : (rx.widx + 1).toNat = rx.widx.toNat + 1) :
    RxBufInv (nextGroup (noteMismatch rx)) := by
  obtain ⟨hwf, hlt, -⟩ := h
  refine ⟨by simpa using hwf, fun e he => ?_, fun hc => by simp at hc⟩
  rw [nextGroup_buf, noteMismatch_buf] at he
  rw [nextGroup_widx, noteMismatch_widx, hw]
  exact Nat.lt_succ_of_lt (hlt e he)

/-- The clauses of R37 that do not speak of `rx_state`. -/
structure RxFrameInv (cfg : Config) (rx : RxRegs) : Prop where
  range    : rx.widx ≤ rx.expect ∧ rx.expect.toNat ≤ cfg.maxResp
  phase    : rx.widx = rx.expect → rx.phase = .p0
  overflow : rx.overflow = true → rx.widx = rx.expect
  cidx     : rx.cerr = true → rx.cidx < rx.widx
  cidxZero : rx.cerr = false → rx.cidx = 0
  buf      : RxBufInv rx

theorem RxFrameInv.rxInv_of_active (h : RxFrameInv cfg rx) (ha : rx.state = .active) (hres : rx.res = .ok) :
    RxInv cfg rx :=
  ⟨h.range, h.phase, h.overflow, h.cidx, h.cidxZero, by simp [ha], fun _ => hres, by simp [ha], h.buf⟩

theorem RxInv.rxTake (h : RxInv cfg rx) (ha : rx.state = .active) (ht : rxTake cfg b rx = .ok rx') :
    RxInv cfg rx' := by
  obtain ⟨hstate, -, hres, -, -⟩ := rxTake_keeps ht
  obtain ⟨⟨hle, hmax⟩, hphase, hover, hcidx, hcidx0, -, hok, -, hbuf⟩ := h
  have hstate : rx'.state = .active := hstate.trans ha
  have hres : rx'.res = .ok := hres.trans (hok ha)
  refine RxFrameInv.rxInv_of_active ?_ hstate hres
  rcases rxTake_cases ht with ⟨hb, rfl⟩ | ⟨hb, -, rfl⟩ | ⟨hb, -, rfl⟩ | ⟨hb, -, -, -, rfl⟩ | ⟨hb, -, -, rfl⟩
  · have hfull : rx.widx = rx.expect := ((rxBeyond_iff rx).1 hb).elim hover id
    exact ⟨⟨hle, hmax⟩, hphase, fun _ => hfull, hcidx, hcidx0, hbuf⟩
  · obtain ⟨-, hne⟩ := rxBeyond_eq_false_iff.1 hb
    exact ⟨⟨hle, hmax⟩, fun he => absurd he hne, hover, hcidx, hcidx0, hbuf⟩
  · obtain ⟨-, hne⟩ := rxBeyond_eq_false_iff.1 hb
    exact ⟨⟨hle, hmax⟩, fun he => absurd he hne, hover, hcidx, hcidx0, hbuf⟩
  · obtain ⟨hlt, hsucc⟩ := widx_succ_of_not_beyond hle hb
    obtain ⟨ho, -⟩ := rxBeyond_eq_false_iff.1 hb
    refine ⟨⟨?_, hmax⟩, fun _ => rfl, fun h => ?_, fun h => ?_, hcidx0, hbuf.nextGroup_put hsucc _⟩
    · simp only [nextGroup_widx, nextGroup_expect, BitVec.le_def]; omega
    · exact absurd (ho.symm.trans h) Bool.false_ne_true
    · have hlow : rx.cidx.toNat < rx.widx.toNat := BitVec.lt_def.1 (hcidx h)
      simp only [nextGroup_widx, nextGroup_cidx, BitVec.lt_def]; omega
  · obtain ⟨hlt, hsucc⟩ := widx_succ_of_not_beyond hle hb
    obtain ⟨ho, -⟩ := rxBeyond_eq_false_iff.1 hb
    refine ⟨⟨?_, by simpa using hmax⟩, fun _ => rfl, fun h => ?_, fun _ => ?_, fun h => by simp at h,
      hbuf.nextGroup_noteMismatch hsucc⟩
    · simp only [nextGroup_widx, nextGroup_expect, noteMismatch_widx, noteMismatch_expect, BitVec.le_def]; omega
    · simp [ho] at h
    · simp only [nextGroup_widx, nextGroup_cidx, noteMismatch_widx, noteMismatch_cidx, BitVec.lt_def, hsucc]
      split
      · next hc => exact Nat.lt_succ_of_lt (BitVec.lt_def.1 (hcidx hc))
      · exact Nat.lt_succ_self _

end

/-! ## The whole block -/

section
variable {i : Instr} {s t : State}

theorem TxInv.exec (h : TxInv s.tx) (ht : exec i s = .next t) : TxInv t.tx := by
  rcases exec_tx_cases ht with he | ⟨n, op, -, -, he⟩ | ⟨w, -, -, he⟩ | ⟨-, he⟩ | ⟨-, hv, he⟩ <;> rw [he]
  · exact h
  · exact TxInv.txStarted
  · exact TxInv.txArgTaken
  · exact TxInv.aborted
  · exact h.transferred hv

theorem RxInv.exec (h : RxInv s.config s.rx) (ht : exec i s = .next t) : RxInv s.config t.rx := by
  rcases exec_rx_cases ht with he | ⟨n, -, -, hn, he⟩ | ⟨-, he⟩ | ⟨b, -, ha, htake⟩ | ⟨d, -, -, he⟩
  · exact he ▸ h
  · exact he ▸ rxInv_rxStarted hn
  · exact he ▸ rxInv_cleared
  · exact h.rxTake ha htake
  · exact he ▸ h.ended

theorem State.Inv.exec (h : s.Inv) (ht : exec i s = .next t) : t.Inv := by
  obtain ⟨hcfg, htx, hrx⟩ := h
  exact ⟨exec_config ht ▸ hcfg, htx.exec ht, exec_config ht ▸ hrx.exec ht⟩

theorem State.Inv.resetBlock (h : s.config.wf) : (resetBlock s).Inv := by
  exact ⟨h, by simp [TxInv, TxRegs.reset], by simp [RxInv, RxIdleClear, RxBufInv, RxRegs.reset]⟩

/-- The invariant speaks of the parameters and the registers only. -/
theorem State.Inv.of_same_registers (h : s.Inv) (hc : t.config = s.config) (htx : t.tx = s.tx) (hrx : t.rx = s.rx) :
    t.Inv := by
  rw [State.Inv, hc, htx, hrx]
  exact h

theorem State.Inv.perform (h : s.Inv) {a : Action} (ht : perform a s = .next t) : t.Inv := by
  cases a with
  | idle => cases ht; exact h
  | reset =>
    obtain ⟨hcfg, -⟩ := h
    cases ht
    exact .resetBlock hcfg
  | illegal e =>
    obtain rfl := raise_eq_next.1 ht
    exact h
  | run i => exact h.exec ht

theorem State.Inv.fetch (h : s.Inv) : (fetch s).2.Inv := by
  obtain ⟨hc, htx, hrx⟩ := fetch_registers s
  exact h.of_same_registers hc htx hrx

theorem State.Inv.step (h : s.Inv) (ht : step s = .next t) : t.Inv := h.fetch.perform ht

theorem State.Inv.step_completes (h : s.Inv) : ∃ t, Machine.step s = .next t := by
  unfold Machine.step
  cases (Machine.fetch s).1 with
  | idle => exact ⟨_, rfl⟩
  | reset => exact ⟨_, rfl⟩
  | illegal e => exact raise_completes ..
  | run i => exact exec_completes h.fetch i

theorem State.Inv.exec_next (h : s.Inv) (i : Instr) : ∃ t, Machine.exec i s = .next t ∧ t.Inv := by
  obtain ⟨t, ht⟩ := exec_completes h i
  exact ⟨t, ht, h.exec ht⟩

theorem State.Inv.safe (h : s.Inv) : s.Safe := by
  intro k
  induction k generalizing s with
  | zero => exact ⟨s, rfl⟩
  | succ k ih =>
    obtain ⟨t, ht⟩ := h.step_completes
    rw [core_run_succ_of_step k ht]
    exact ih (h.step ht)

end

/-- Settles O55: each clause of the invariant is read off the reset values. -/
theorem invariantHoldsAtReset : Obligations.InvariantHoldsAtReset :=
  ⟨State.Inv.resetBlock (s := State.reset) (by decide), ⟨rfl, rfl⟩,
    fun c hc => State.Inv.resetBlock (s := { State.reset with config := c }) hc, fun _ => State.Inv.resetBlock⟩

/-- Settles O56: every operation keeps the invariant of each unit (`TxInv.exec`, `RxInv.exec`), reset brings it about,
and what else a step does writes no register. -/
theorem everyStepKeepsTheInvariant : Obligations.EveryStepKeepsTheInvariant := fun _ _ h => h.step

/-- Settles O57, by induction on the number of steps. -/
theorem nothingStopsWhileTheInvariantHolds : Obligations.NothingStopsWhileTheInvariantHolds :=
  ⟨fun i _ h => h.exec_next i, fun _ h => h.safe⟩

end Sys2Proof.Machine

/-! # Sequences of operations: interleaving of the units (20_memory.md R64, 95_test_vectors.md P6) -/

namespace Sys2Proof.Machine

open Sys2Proof.Claims

/-! ## Every sequence completes under the invariant -/

section
variable {is : List Instr} {i : Instr} {s t : State}

theorem State.Inv.runInstrs_next (h : s.Inv) (is : List Instr) : ∃ t, runInstrs is s = .next t ∧ t.Inv := by
  induction is generalizing s with
  | nil => exact ⟨s, rfl, h⟩
  | cons i is ih =>
    obtain ⟨u, hu, hinv⟩ := h.exec_next i
    obtain ⟨t, ht, htinv⟩ := ih hinv
    exact ⟨t, (runInstrs_cons hu).trans ht, htinv⟩

/-! ## The responses of a sequence, each with the unit it comes from -/

theorem answerLog_cons {e : Effect} (h : exec i s = .next (s.after e)) :
    answerLog (i :: is) s = e.responses.map (fun r => (i.part, r)) ++ answerLog is (s.after e) := by
  simp only [answerLog, h, State.after_responses, List.drop_left]

theorem answersOf_cons_of_part_eq {e : Effect} (h : exec i s = .next (s.after e)) :
    answersOf i.part (i :: is) s = e.responses ++ answersOf i.part is (s.after e) := by
  have hall : (e.responses.map fun r => (i.part, r)).filter (fun a => a.1 = i.part) =
      e.responses.map fun r => (i.part, r) := by
    simp [List.filter_eq_self]
  simp [answersOf, answerLog_cons h, hall, Function.comp_def]

theorem answersOf_cons_of_part_ne {p : Part} {e : Effect} (h : exec i s = .next (s.after e)) (hp : i.part ≠ p) :
    answersOf p (i :: is) s = answersOf p is (s.after e) := by
  have hnone : (e.responses.map fun r => (i.part, r)).filter (fun a => a.1 = p) = [] := by
    simp [List.filter_eq_nil_iff, hp]
  simp [answersOf, answerLog_cons h, hnone]

theorem responses_runInstrs (h : runInstrs is s = .next t) :
    t.ports.responses = s.ports.responses ++ (answerLog is s).map Prod.snd := by
  induction is generalizing s with
  | nil => cases h; simp [answerLog]
  | cons i is ih =>
    obtain ⟨u, hu, ht⟩ := runInstrs_cons_next.1 h
    obtain ⟨e, -, rfl⟩ := exists_hasEffect_eq_after hu
    rw [ih ht, answerLog_cons hu]
    simp [Function.comp_def]

end

/-! ## A unit's operations performed alone -/

section
variable {p : Part} {i : Instr} {s a : State} {e : Effect}

theorem State.SameFor.symm (h : s.SameFor p a) : a.SameFor p s :=
  ⟨h.config.symm, fun hp => (h.tx hp).symm, fun hp => (h.rx hp).symm⟩

theorem State.SameFor.trans {b : State} (h : s.SameFor p a) (h' : a.SameFor p b) : s.SameFor p b :=
  ⟨h'.config.trans h.config, fun hp => (h'.tx hp).trans (h.tx hp), fun hp => (h'.rx hp).trans (h.rx hp)⟩

/-- The same effect keeps two states the same for a unit. -/
theorem State.SameFor.after (h : s.SameFor p a) (e : Effect) : (s.after e).SameFor p (a.after e) :=
  ⟨h.config, fun hp => by simp [h.tx hp], fun hp => by simp [h.rx hp]⟩

/-- From a state that is the same for a unit, the unit's own operations alone lead to a state that is the same for it,
with the unit's responses and items. -/
structure RunsAlone (p : Part) (is : List Instr) (s a t b : State) : Prop where
  all       : runInstrs is s = .next t
  alone     : runInstrs (is.filter fun i => i.part = p) a = .next b
  same      : t.SameFor p b
  responses : b.ports.responses = a.ports.responses ++ answersOf p is s
  items     : p = .tx → ∃ its, t.ports.tItems = s.ports.tItems ++ its ∧ b.ports.tItems = a.ports.tItems ++ its

theorem RunsAlone.cons_of_part_eq {is : List Instr} {t b : State} (he : HasEffect i s e) (ha : s.SameFor i.part a)
    (h : RunsAlone i.part is (s.after e) (a.after e) t b) : RunsAlone i.part (i :: is) s a t b where
  all := (runInstrs_cons (he.exec s (.refl s _))).trans h.all
  alone := by
    rw [List.filter_cons_of_pos (by simp), runInstrs_cons (he.exec a ha), h.alone]
  same := h.same
  responses := by
    rw [h.responses, answersOf_cons_of_part_eq (he.exec s (.refl s _)), State.after_responses, List.append_assoc]
  items hp := by
    obtain ⟨its, ht, hb⟩ := h.items hp
    exact ⟨e.items ++ its, by simp [ht], by simp [hb]⟩

theorem RunsAlone.cons_of_part_ne {is : List Instr} {t b : State} (he : HasEffect i s e) (hp : i.part ≠ p)
    (h : RunsAlone p is (s.after e) a t b) : RunsAlone p (i :: is) s a t b where
  all := (runInstrs_cons (he.exec s (.refl s _))).trans h.all
  alone := by
    rw [List.filter_cons_of_neg (by simp [hp]), h.alone]
  same := h.same
  responses := by
    rw [h.responses, answersOf_cons_of_part_ne (he.exec s (.refl s _)) hp]
  items htx := by
    obtain ⟨its, ht, hb⟩ := h.items htx
    have hnone : e.items = [] := he.within.items (htx ▸ hp)
    exact ⟨its, by simp [ht, hnone], hb⟩

theorem exists_runsAlone (hs : s.Inv) (ha : s.SameFor p a) (is : List Instr) : ∃ t b, RunsAlone p is s a t b := by
  induction is generalizing s a with
  | nil => exact ⟨s, a, rfl, rfl, ha, by simp [answersOf, answerLog], fun _ => ⟨[], by simp, by simp⟩⟩
  | cons i is ih =>
    obtain ⟨u, hu, hinv⟩ := hs.exec_next i
    obtain ⟨e, he, rfl⟩ := exists_hasEffect_eq_after hu
    by_cases hp : i.part = p
    · subst hp
      obtain ⟨t, b, h⟩ := ih hinv (ha.after e)
      exact ⟨t, b, .cons_of_part_eq he ha h⟩
    · obtain ⟨t, b, h⟩ := ih hinv ((State.sameFor_after he.within hp).symm.trans ha)
      exact ⟨t, b, .cons_of_part_ne he hp h⟩

end

/-- Settles O46: for each unit, the sequence and the unit's own operations run side by side (`exists_runsAlone`): the
unit's operations have the same effects in both, and the others do not touch what the unit sees. -/
theorem interleavingDisturbsNoUnit : Obligations.InterleavingDisturbsNoUnit := by
  intro is s hs
  obtain ⟨t, u, htx⟩ := exists_runsAlone hs (.refl s .tx) is
  obtain ⟨t', v, hrx⟩ := exists_runsAlone hs (.refl s .rx) is
  obtain ⟨t'', w, hcrc⟩ := exists_runsAlone hs (.refl s .crc) is
  obtain rfl : t' = t := Host.Outcome.next.inj (hrx.all.symm.trans htx.all)
  obtain ⟨its, ht, hu⟩ := htx.items rfl
  exact ⟨t', u, v, w, htx.all, htx.alone, hrx.alone, hcrc.alone, (htx.same.tx rfl).symm, ht.trans hu.symm,
    (hrx.same.rx rfl).symm, responses_runInstrs htx.all, htx.responses, hrx.responses, hcrc.responses⟩

end Sys2Proof.Machine

/-! # RX.RDWORD (42_rx_decoder.md R160) -/

namespace Sys2Proof.Machine

section
variable {s : State} {k : Byte}

theorem encode_rxRdword (k : Byte) : encode (.rxRdword k) = .host ((0xA0 : Byte) ++ k ++ (0 : Word)) := rfl

theorem exec_rxRdword_of_refused (h : s.rx.state ≠ .done ∨ s.rx.res ≠ .ok) :
    exec (.rxRdword k) s = .next (s.giveResponse 0x20000000) := by
  rw [exec, execRxRdword, if_pos h, raise_eState]

theorem exec_rxRdword_of_le (hd : s.rx.state = .done) (hr : s.rx.res = .ok) (hk : s.rx.expect ≤ k) :
    exec (.rxRdword k) s = .next (s.giveResponse 0x30000000) := by
  rw [exec, execRxRdword, if_neg (not_or.2 ⟨not_not_intro hd, not_not_intro hr⟩), if_pos hk, raise_eRange]

theorem exec_rxRdword_of_readEntry {w : Word} (hd : s.rx.state = .done) (hr : s.rx.res = .ok) (hk : k < s.rx.expect)
    (hw : readEntry s.config s.rx.buf k = .ok w) :
    exec (.rxRdword k) s = .next (s.giveResponse ((0 : Word) ++ w)) := by
  rw [exec, execRxRdword, if_neg (not_or.2 ⟨not_not_intro hd, not_not_intro hr⟩), if_neg (BitVec.not_le.2 hk), hw]
  rfl

theorem readEntry_of_find {cfg : Config} {m : Memory} {w : Word} (hl : k.toNat < cfg.maxResp)
    (hf : Memory.find k.toNat m = some w) : readEntry cfg m k = .ok w := by
  rw [readEntry, if_pos hl, hf]

theorem find_of_readEntry {cfg : Config} {m : Memory} {w : Word} (h : readEntry cfg m k = .ok w) :
    Memory.find k.toNat m = some w := by
  rcases readEntry_cases cfg m k with ⟨w', -, hf, he⟩ | ⟨-, -, he⟩ | ⟨-, he⟩
  · exact Except.ok.inj (he.symm.trans h) ▸ hf
  · cases he.symm.trans h
  · cases he.symm.trans h

end

/-- Settles O34: the three answers of `exec`; under the invariant the entries below `rx_expect` are readable
(`State.Inv.entriesReadable`). -/
theorem rxRdwordReadsADecodedWord : Obligations.RxRdwordReadsADecodedWord := by
  refine ⟨encode_rxRdword, fun _ _ => exec_rxRdword_of_refused, fun _ _ => exec_rxRdword_of_le,
    fun k w s hd hr hk hl hf => exec_rxRdword_of_readEntry hd hr hk (readEntry_of_find hl hf),
    fun k s hinv hd hr hk => ?_⟩
  obtain ⟨w, hw⟩ := hinv.entriesReadable hd hr k hk
  exact ⟨w, find_of_readEntry hw, exec_rxRdword_of_readEntry hd hr hk hw⟩

end Sys2Proof.Machine

/-! # What cannot be observed: the buffer's content, and the registers without a reset value (10_state.md R36, R43) -/

namespace Sys2Proof.Machine

open Sys2Proof.Claims

/-! ## The data registers of the RX unit -/

/-- The content of `rx_hi`, `rx_lo` and `rx_buf`, which no RX operation but RX.BYTE and RX.RDWORD looks at. -/
structure RxData where
  hi  : Byte
  lo  : Byte
  buf : Memory

/-- The RX registers with other data. -/
def RxRegs.withData (rx : RxRegs) (d : RxData) : RxRegs := { rx with hi := d.hi, lo := d.lo, buf := d.buf }

/-- The data has the bytes that `rx_phase` says are held (R31, R32). -/
structure RxData.HeldIn (d : RxData) (rx : RxRegs) : Prop where
  hi : rx.phase ≠ .p0 → d.hi = rx.hi
  lo : rx.phase = .p2 → d.lo = rx.lo

/-- After an operation the data is as good a stand-in as before it: it has the held bytes, and where it was the
registers' own it still is. -/
structure RxData.Follows (d : RxData) (rx : RxRegs) (d' : RxData) (rx' : RxRegs) : Prop where
  held : d'.HeldIn rx'
  hi   : d.hi = rx.hi → d'.hi = rx'.hi
  lo   : d.lo = rx.lo → d'.lo = rx'.lo
  buf  : d.buf = rx.buf → d'.buf = rx'.buf

section
variable {cfg : Config} {b : Byte} {rx rx' : RxRegs} {d : RxData}

theorem RxData.HeldIn.follows (h : d.HeldIn rx) : d.Follows rx d rx := ⟨h, id, id, id⟩

/-- A unit with no byte held and no entry stored: any bytes stand in for `rx_hi` and `rx_lo`. -/
theorem RxData.follows_cleared (hp : rx'.phase = .p0) (hhi : rx'.hi = rx.hi) (hlo : rx'.lo = rx.lo)
    (hbuf : rx'.buf = []) : d.Follows rx { d with buf := [] } rx' :=
  ⟨⟨fun h => absurd hp h, fun h => by simp [hp] at h⟩, fun h => h.trans hhi.symm, fun h => h.trans hlo.symm,
    fun _ => hbuf.symm⟩

theorem noteMismatch_withData (rx : RxRegs) (d : RxData) :
    noteMismatch (rx.withData d) = (noteMismatch rx).withData d := by
  cases hc : rx.cerr with
  | true => simp [noteMismatch, RxRegs.withData, hc]
  | false => simp [noteMismatch, RxRegs.withData, hc]

theorem rxTake_withData (hd : d.HeldIn rx) (h : rxTake cfg b rx = .ok rx') :
    ∃ d', rxTake cfg b (rx.withData d) = .ok (rx'.withData d') ∧ d.Follows rx d' rx' := by
  rcases rxTake_cases h with ⟨hb, rfl⟩ | ⟨hb, hp, rfl⟩ | ⟨hb, hp, rfl⟩ | ⟨hb, hp, hc, hl, rfl⟩ | ⟨hb, hp, hc, rfl⟩
  · exact ⟨d, rxTake_of_beyond hb, ⟨hd.hi, hd.lo⟩, id, id, id⟩
  · exact ⟨{ d with hi := b }, rxTake_of_p0 hb hp, ⟨fun _ => rfl, nofun⟩, fun _ => rfl, id, id⟩
  · exact ⟨{ d with lo := b }, rxTake_of_p1 hb hp, ⟨fun _ => hd.hi (by simp [hp]), fun _ => rfl⟩, id, fun _ => rfl, id⟩
  · have hhi : d.hi = rx.hi := hd.hi (by simp [hp])
    have hlo : d.lo = rx.lo := hd.lo hp
    have hword : mkWord d.hi d.lo = mkWord rx.hi rx.lo := by rw [hhi, hlo]
    refine ⟨{ d with buf := Memory.put rx.widx.toNat (mkWord d.hi d.lo) d.buf },
      rxTake_of_crc_eq hb hp hl (by rw [← beq_iff_eq]; exact (congrArg (crc8Check · b) hword).trans hc),
      ⟨fun _ => hhi, fun _ => hlo⟩, id, id, fun hbuf => ?_⟩
    simp [hword, hbuf]
  · have hhi : d.hi = rx.hi := hd.hi (by simp [hp])
    have hlo : d.lo = rx.lo := hd.lo hp
    have hword : mkWord d.hi d.lo = mkWord rx.hi rx.lo := by rw [hhi, hlo]
    refine ⟨d, ?_, ⟨fun _ => by simpa using hhi, fun _ => by simpa using hlo⟩, by simp, by simp, by simp⟩
    refine (rxTake_of_crc_ne (rx := rx.withData d) hb hp ?_).trans ?_
    · rw [← beq_eq_false_iff_ne]; exact (congrArg (crc8Check · b) hword).trans hc
    · exact congrArg (fun r => Except.ok (nextGroup r)) (noteMismatch_withData rx d)

end

section
variable {i : Instr} {s t : State} {d : RxData}

/-- An operation does the same with other data in the RX unit, as long as the held bytes are the same; RX.RDWORD of a
decoded frame also looks at the buffer. -/
theorem exec_withData (hd : d.HeldIn s.rx)
    (hread : (∀ k, i ≠ .rxRdword k) ∨ s.rx.state ≠ .done ∨ s.rx.res ≠ .ok ∨ d.buf = s.rx.buf)
    (h : exec i s = .next t) :
    ∃ d', exec i (s.withRx (s.rx.withData d)) = .next (t.withRx (t.rx.withData d')) ∧ d.Follows s.rx d' t.rx := by
  by_cases hp : i.part = .rx
  swap
  · have hrx := exec_rx_of_part_ne hp h
    exact ⟨d, hrx ▸ exec_withRx hp h _, hrx ▸ hd.follows⟩
  cases i with
  | rxStart n =>
    rcases execRxStart_cases h with ⟨hs, rfl⟩ | ⟨hs, hn, rfl⟩ | ⟨hs, hn, rfl⟩
    · exact ⟨d, exec_rxStart_of_ne_idle hs, hd.follows⟩
    · exact ⟨d, exec_rxStart_of_lt hs hn, hd.follows⟩
    · exact ⟨{ d with buf := [] }, exec_rxStart_of_le hs hn, RxData.follows_cleared rfl rfl rfl rfl⟩
  | rxResult =>
    rcases execRxResult_cases h with ⟨hs, rfl⟩ | ⟨hs, hr, rfl⟩ | ⟨hs, hr, rfl⟩ | ⟨hs, hr, rfl⟩
    · exact ⟨d, exec_rxResult_of_ne_done hs, hd.follows⟩
    · exact ⟨d, rspWord_ok_zext16 s.rx.expect ▸ exec_rxResult_of_ok hs hr, hd.follows⟩
    · exact ⟨d, exec_rxResult_of_checksum hs hr, hd.follows⟩
    · exact ⟨d, exec_rxResult_of_length hs hr, hd.follows⟩
  | rxRdword k =>
    rcases execRxRdword_cases h with ⟨hs, rfl⟩ | ⟨hs, hr, hk, rfl⟩ | ⟨hs, hr, hk, hl, w, hf, rfl⟩
    · exact ⟨d, exec_rxRdword_of_refused hs, hd.follows⟩
    · exact ⟨d, exec_rxRdword_of_le hs hr hk, hd.follows⟩
    · have hbuf : d.buf = s.rx.buf := by simpa [hs, hr] using hread
      have hfind : Memory.find k.toNat d.buf = Memory.find k.toNat s.rx.buf := by rw [hbuf]
      exact ⟨d, exec_rxRdword_of_readEntry hs hr hk (readEntry_of_find hl (hfind.trans hf)), hd.follows⟩
  | rxClear =>
    cases h
    exact ⟨{ d with buf := [] }, exec_rxClear _, RxData.follows_cleared rfl rfl rfl rfl⟩
  | rxStat =>
    cases h
    exact ⟨d, rfl, hd.follows⟩
  | rxByte b =>
    rcases execRxByte_cases h with ⟨hs, rx, htake, rfl⟩ | ⟨hs, rfl⟩
    · obtain ⟨d', htake', hd'⟩ := rxTake_withData hd htake
      exact ⟨d', exec_rxByte_of_rxTake hs htake', hd'⟩
    · exact ⟨d, exec_rxByte_of_not_active b hs, hd.follows⟩
  | rxEnd e =>
    rcases execRxEnd_cases (d := e) h with ⟨hs, rfl⟩ | ⟨hs, rfl⟩
    · exact ⟨d, exec_rxEnd_of_active e hs, ⟨hd.hi, hd.lo⟩, id, id, id⟩
    · exact ⟨d, exec_rxEnd_of_not_active e hs, hd.follows⟩
  | _ => cases hp

end

/-- Settles O53: with other data in the buffer alone an operation does the same (`exec_withData`), and leaves a state
that differs in the buffer alone. -/
theorem partialResultsAreNeverSurfaced : Obligations.PartialResultsAreNeverSurfaced := by
  intro i s t t' m hread h h'
  obtain ⟨d', hexec, hd⟩ := exec_withData (d := { hi := s.rx.hi, lo := s.rx.lo, buf := m })
    ⟨fun _ => rfl, fun _ => rfl⟩ (hread.imp_right (.imp_right .inl)) h
  obtain rfl : t' = t.withRx (t.rx.withData d') := Host.Outcome.next.inj (h'.symm.trans hexec)
  refine ⟨rfl, rfl, ?_, rfl⟩
  simp [RxRegs.withData, hd.hi rfl, hd.lo rfl]

/-! ## The registers of the TX unit without a reset value -/

/-- TX registers that show the same at the ports from here on: `tx_opcode`, `tx_word` and `tx_crc` may differ where
nothing of them is still to be offered (R126). -/
structure TxAlike (tx tx' : TxRegs) : Prop where
  state  : tx'.state = tx.state
  rem    : tx'.rem = tx.rem
  opcode : tx.state = .oph ∨ tx.state = .opl → tx'.opcode = tx.opcode
  word   : tx.state = .ah ∨ tx.state = .al → tx'.word = tx.word
  crc    : tx.state = .ah ∨ tx.state = .al ∨ tx.state = .ac → tx'.crc = tx.crc

section
variable {tx tx' : TxRegs} {n : Byte} {op w : Word}

theorem TxAlike.txOffer_eq (h : TxAlike tx tx') : txOffer tx' = txOffer tx := by
  obtain ⟨hstate, hrem, hopcode, hword, hcrc⟩ := h
  cases hs : tx.state with
  | idle => rw [txOffer_of_idle hs, txOffer_of_idle (hstate.trans hs)]
  | oph => rw [txOffer_of_oph hs, txOffer_of_oph (hstate.trans hs), hopcode (.inl hs)]
  | opl => rw [txOffer_of_opl hs, txOffer_of_opl (hstate.trans hs), hopcode (.inr hs), hrem]
  | wait => rw [txOffer_of_wait hs, txOffer_of_wait (hstate.trans hs)]
  | ah => rw [txOffer_of_ah hs, txOffer_of_ah (hstate.trans hs), hword (.inl hs)]
  | al => rw [txOffer_of_al hs, txOffer_of_al (hstate.trans hs), hword (.inr hs)]
  | ac => rw [txOffer_of_ac hs, txOffer_of_ac (hstate.trans hs), hcrc (.inr (.inr hs)), hrem]

theorem TxAlike.txNextState_eq (h : TxAlike tx tx') : txNextState tx' = txNextState tx := by
  simp only [txNextState, txAfterPart, h.state, h.rem]

theorem TxAlike.txStarted (tx tx' : TxRegs) : TxAlike (txStarted n op tx) (txStarted n op tx') :=
  ⟨rfl, rfl, fun _ => rfl, by simp [Machine.txStarted], by simp [Machine.txStarted]⟩

theorem TxAlike.txArgTaken (h : TxAlike tx tx') : TxAlike (txArgTaken w tx) (txArgTaken w tx') :=
  ⟨rfl, congrArg (· - 1) h.rem, by simp [Machine.txArgTaken], fun _ => rfl, fun _ => rfl⟩

/-- In `T_IDLE` and `T_WAIT` nothing is still to be offered. -/
theorem TxAlike.of_not_offering (hstate : tx'.state = tx.state) (hrem : tx'.rem = tx.rem)
    (h : tx.state = .idle ∨ tx.state = .wait) : TxAlike tx tx' := by
  refine ⟨hstate, hrem, ?_, ?_, ?_⟩ <;> rcases h with h | h <;> simp [h]

/-- After the last byte of a part. -/
theorem TxAlike.afterPart (hrem : tx'.rem = tx.rem) :
    TxAlike { tx with state := txAfterPart tx } { tx' with state := txAfterPart tx' } := by
  refine .of_not_offering (by simp only [txAfterPart, hrem]) hrem ?_
  by_cases h0 : tx.rem = 0
  · exact .inl (if_pos h0)
  · exact .inr (if_neg h0)

/-- Within a part the next item comes from the same registers. -/
theorem TxAlike.transferred (h : TxAlike tx tx') :
    TxAlike { tx with state := txNextState tx } { tx' with state := txNextState tx' } := by
  rw [h.txNextState_eq]
  cases hs : tx.state with
  | idle => rw [txNextState, hs]; exact .of_not_offering rfl h.rem (.inl rfl)
  | oph => rw [txNextState, hs]; exact ⟨rfl, h.rem, fun _ => h.opcode (.inl hs), by simp, by simp⟩
  | wait => rw [txNextState, hs]; exact .of_not_offering rfl h.rem (.inr rfl)
  | ah =>
    rw [txNextState, hs]
    exact ⟨rfl, h.rem, by simp, fun _ => h.word (.inl hs), fun _ => h.crc (.inl hs)⟩
  | al => rw [txNextState, hs]; exact ⟨rfl, h.rem, by simp, by simp, fun _ => h.crc (.inr (.inl hs))⟩
  | opl => simpa only [txNextState, hs, txAfterPart, h.rem] using TxAlike.afterPart h.rem
  | ac => simpa only [txNextState, hs, txAfterPart, h.rem] using TxAlike.afterPart h.rem

end

section
variable {i : Instr} {s t : State} {tx : TxRegs}

theorem exec_withTxAlike (ha : TxAlike s.tx tx) (h : exec i s = .next t) :
    ∃ tx', exec i (s.withTx tx) = .next (t.withTx tx') ∧ TxAlike t.tx tx' := by
  by_cases hp : i.part = .tx
  swap
  · have htx := exec_tx_of_part_ne hp h
    exact ⟨tx, exec_withTx hp h _, htx ▸ ha⟩
  cases i with
  | txStart n op =>
    rcases execTxStart_cases h with ⟨hs, rfl⟩ | ⟨hs, rfl⟩
    · exact ⟨_, exec_txStart_of_idle n op (ha.state.trans hs), .txStarted ..⟩
    · exact ⟨tx, exec_txStart_of_ne_idle n op (ha.state ▸ hs), ha⟩
  | txArg w =>
    rcases execTxArg_cases h with ⟨hs, rfl⟩ | ⟨hs, rfl⟩
    · exact ⟨_, exec_txArg_of_wait w (ha.state.trans hs), ha.txArgTaken⟩
    · exact ⟨tx, exec_txArg_of_ne_wait w (ha.state ▸ hs), ha⟩
  | txAbort =>
    cases h
    exact ⟨_, exec_txAbort _, .of_not_offering rfl rfl (.inl rfl)⟩
  | txStat =>
    cases h
    refine ⟨tx, ?_, ha⟩
    rw [exec_txStat, State.withTx_tx, ha.state, ha.rem, ← rspWord_ok_setWidth]
    rfl
  | txByte =>
    rcases execTxByte_cases h with ⟨it, ho, rfl⟩ | ⟨ho, rfl⟩
    · exact ⟨_, exec_txByte_of_offer (ha.txOffer_eq.trans ho) rfl, ha.transferred⟩
    · refine ⟨tx, ?_, ha⟩
      simp only [exec, execTxByte, State.withTx_tx, ha.txOffer_eq, ho]
  | _ => cases hp

theorem runInstrs_withTxAlike_withData {is : List Instr} {d : RxData} (ha : TxAlike s.tx tx) (hd : d.HeldIn s.rx)
    (hbuf : d.buf = s.rx.buf) (h : runInstrs is s = .next t) :
    ∃ tx' d', runInstrs is ((s.withTx tx).withRx (s.rx.withData d)) =
        .next ((t.withTx tx').withRx (t.rx.withData d')) ∧ TxAlike t.tx tx' ∧ d'.buf = t.rx.buf := by
  induction is generalizing s tx d with
  | nil => cases h; exact ⟨tx, d, rfl, ha, hbuf⟩
  | cons i is ih =>
    obtain ⟨u, hu, ht⟩ := runInstrs_cons_next.1 h
    obtain ⟨tx', htx, ha'⟩ := exec_withTxAlike ha hu
    obtain ⟨d', hrx, hd'⟩ := exec_withData (s := s.withTx tx) hd (.inr (.inr (.inr hbuf))) htx
    obtain ⟨tx'', d'', hrun, ha'', hbuf'⟩ := ih ha' hd'.held (hd'.buf hbuf) ht
    exact ⟨tx'', d'', (runInstrs_cons hrx).trans hrun, ha'', hbuf'⟩

end

/-- Settles O54: in an idle block nothing of the five registers is still to be offered or is held (`TxAlike`,
`RxData.HeldIn`), every operation keeps it so, and then none of them shows. -/
theorem unspecifiedRegistersAreUnobservable : Obligations.UnspecifiedRegistersAreUnobservable := by
  intro is s opcode word crc h l hinv ⟨htx, hrx⟩
  obtain ⟨t, ht, -⟩ := hinv.runInstrs_next is
  obtain ⟨-, -, -, -, -, -, -, hidle, -⟩ := hinv
  obtain ⟨-, -, hphase, -⟩ := hidle hrx
  have ha : TxAlike s.tx { s.tx with opcode := opcode, word := word, crc := crc } :=
    .of_not_offering rfl rfl (.inl htx)
  have hd : RxData.HeldIn { hi := h, lo := l, buf := s.rx.buf } s.rx :=
    ⟨fun hp => absurd hphase hp, fun hp => by simp [hphase] at hp⟩
  obtain ⟨tx', d', hrun, ha', hbuf⟩ := runInstrs_withTxAlike_withData ha hd rfl ht
  refine ⟨t, _, ht, hrun, rfl, ha'.state, ha'.rem, ?_⟩
  simp [RxRegs.withData, hbuf]

end Sys2Proof.Machine

/-! # Which operation writes which register (10_state.md R41), and the two transition tables (R123, R154) -/

namespace Sys2Proof.Machine

open Sys2Proof.Claims

/-! ## The transitions -/

section
variable {i : Instr} {s t : State}

/-- The changing rows of R123 at TX.BYTE. -/
theorem txByte_rows {tx : TxRegs} (hv : (txOffer tx).isSome) :
    (tx.state = .oph ∧ txNextState tx = .opl) ∨
    (tx.state = .opl ∧ tx.rem = 0 ∧ txNextState tx = .idle) ∨
    (tx.state = .opl ∧ tx.rem ≠ 0 ∧ txNextState tx = .wait) ∨
    (tx.state = .ah ∧ txNextState tx = .al) ∨
    (tx.state = .al ∧ txNextState tx = .ac) ∨
    (tx.state = .ac ∧ tx.rem = 0 ∧ txNextState tx = .idle) ∨
    (tx.state = .ac ∧ tx.rem ≠ 0 ∧ txNextState tx = .wait) := by
  cases hs : tx.state with
  | idle => simp [txOffer_of_idle hs] at hv
  | oph => simp [txNextState_of_oph hs]
  | opl =>
    rw [txNextState_of_opl hs]
    by_cases h0 : tx.rem = 0
    · exact .inr (.inl ⟨rfl, h0, if_pos h0⟩)
    · exact .inr (.inr (.inl ⟨rfl, h0, if_neg h0⟩))
  | wait => simp [txOffer_of_wait hs] at hv
  | ah => simp [txNextState_of_ah hs]
  | al => simp [txNextState_of_al hs]
  | ac =>
    rw [txNextState_of_ac hs]
    by_cases h0 : tx.rem = 0
    · exact .inr (.inr (.inr (.inr (.inr (.inl ⟨rfl, h0, if_pos h0⟩)))))
    · exact .inr (.inr (.inr (.inr (.inr (.inr ⟨rfl, h0, if_neg h0⟩)))))

end

/-- Settles O26: what an operation can do to the TX registers (`exec_tx_cases`), with TX.BYTE row by row. -/
theorem txTransitionsAreTheTable : Obligations.TxTransitionsAreTheTable := by
  intro i s t h hne
  rcases exec_tx_cases h with he | ⟨n, op, rfl, hs, he⟩ | ⟨w, rfl, hs, he⟩ | ⟨rfl, he⟩ | ⟨rfl, hv, he⟩ <;>
    rw [he] at hne ⊢
  · exact absurd rfl hne
  · exact .inl ⟨hs, rfl, n, op, rfl, rfl, rfl⟩
  · exact .inr (.inr (.inr (.inr (.inl ⟨hs, rfl, w, rfl, rfl, rfl, rfl⟩))))
  · simp
  · rcases txByte_rows hv with ⟨hs, hn⟩ | ⟨hs, h0, hn⟩ | ⟨hs, h0, hn⟩ | ⟨hs, hn⟩ | ⟨hs, hn⟩ | ⟨hs, h0, hn⟩ |
      ⟨hs, h0, hn⟩
    · exact .inr (.inl ⟨hs, hn, rfl⟩)
    · exact .inr (.inr (.inl ⟨hs, h0, hn, rfl⟩))
    · exact .inr (.inr (.inr (.inl ⟨hs, h0, hn, rfl⟩)))
    · exact .inr (.inr (.inr (.inr (.inr (.inl ⟨hs, hn, rfl⟩)))))
    · exact .inr (.inr (.inr (.inr (.inr (.inr (.inl ⟨hs, hn, rfl⟩))))))
    · exact .inr (.inr (.inr (.inr (.inr (.inr (.inr (.inl ⟨hs, h0, hn, rfl⟩)))))))
    · exact .inr (.inr (.inr (.inr (.inr (.inr (.inr (.inr (.inl ⟨hs, h0, hn, rfl⟩))))))))

/-- Settles O37: what an operation can do to the RX registers (`exec_rx_cases`); RX.BYTE leaves `rx_state` alone. -/
theorem rxTransitionsAreTheTable : Obligations.RxTransitionsAreTheTable := by
  intro i s t h hne
  rcases exec_rx_cases h with he | ⟨n, rfl, hs, hn, he⟩ | ⟨rfl, he⟩ | ⟨b, rfl, hs, htake⟩ | ⟨d, rfl, hs, he⟩
  · exact absurd (congrArg RxRegs.state he) hne
  · exact .inl ⟨hs, he ▸ rfl, n, rfl, hn, he ▸ rfl⟩
  · exact .inr (.inr ⟨he ▸ rfl, rfl⟩)
  · obtain ⟨hstate, -⟩ := rxTake_keeps htake
    exact absurd hstate hne
  · exact .inr (.inl ⟨hs, he ▸ rfl, d, rfl, he ▸ rfl⟩)

/-! ## The "Written by" column (R41) -/

section
variable {i : Instr} {s t : State}

theorem tx_writtenBy (h : exec i s = .next t) :
    (t.tx.state ≠ s.tx.state → (∃ n op, i = .txStart n op) ∨ (∃ w, i = .txArg w) ∨ i = .txByte ∨ i = .txAbort) ∧
    (t.tx.opcode ≠ s.tx.opcode → ∃ n op, i = .txStart n op) ∧
    (t.tx.rem ≠ s.tx.rem → (∃ n op, i = .txStart n op) ∨ (∃ w, i = .txArg w) ∨ i = .txAbort) ∧
    (t.tx.word ≠ s.tx.word ∨ t.tx.crc ≠ s.tx.crc → ∃ w, i = .txArg w) := by
  rcases exec_tx_cases h with he | ⟨n, op, rfl, -, he⟩ | ⟨w, rfl, -, he⟩ | ⟨rfl, he⟩ | ⟨rfl, -, he⟩
  · simp [he]
  · simp [he, txStarted]
  · simp [he, txArgTaken]
  · simp [he]
  · simp [he]

theorem rx_writtenBy (h : exec i s = .next t) :
    (t.rx.state ≠ s.rx.state → (∃ n, i = .rxStart n) ∨ (∃ d, i = .rxEnd d) ∨ i = .rxClear) ∧
    (t.rx.expect ≠ s.rx.expect → (∃ n, i = .rxStart n) ∨ i = .rxClear) ∧
    (t.rx.widx ≠ s.rx.widx ∨ t.rx.phase ≠ s.rx.phase ∨ t.rx.overflow ≠ s.rx.overflow ∨ t.rx.cerr ≠ s.rx.cerr ∨
      t.rx.cidx ≠ s.rx.cidx → (∃ n, i = .rxStart n) ∨ (∃ b, i = .rxByte b) ∨ i = .rxClear) ∧
    (t.rx.hi ≠ s.rx.hi ∨ t.rx.lo ≠ s.rx.lo → ∃ b, i = .rxByte b) ∧
    (t.rx.res ≠ s.rx.res → (∃ n, i = .rxStart n) ∨ (∃ d, i = .rxEnd d) ∨ i = .rxClear) := by
  rcases exec_rx_cases h with he | ⟨n, rfl, -, -, he⟩ | ⟨rfl, he⟩ | ⟨b, rfl, -, htake⟩ | ⟨d, rfl, -, he⟩
  · simp [he]
  · simp [he, rxStarted, clearFrame]
  · simp [he, clearFrame]
  · obtain ⟨hstate, hexpect, hres, -, -⟩ := rxTake_keeps htake
    simp [hstate, hexpect, hres]
  · simp [he]

end

/-- Settles O48, unit by unit. -/
theorem registersAreWrittenOnlyByTheirOperations : Obligations.RegistersAreWrittenOnlyByTheirOperations := by
  intro i s t h
  obtain ⟨hstate, hopcode, hrem, hword⟩ := tx_writtenBy h
  exact ⟨hstate, hopcode, hrem, hword, rx_writtenBy h⟩

/-! ## Through a sequence of operations -/

section
variable {is : List Instr} {s t : State} {P : State → Prop} {allowed : Instr → Prop}

/-- What every allowed operation keeps, a sequence of allowed operations keeps. -/
theorem runInstrs_keeps (hstep : ∀ i s t, allowed i → exec i s = .next t → P s → P t) (h : runInstrs is s = .next t)
    (hall : ∀ i ∈ is, allowed i) (hs : P s) : P t := by
  induction is generalizing s with
  | nil => cases h; exact hs
  | cons i is ih =>
    obtain ⟨u, hu, ht⟩ := runInstrs_cons_next.1 h
    exact ih ht (fun j hj => hall j (List.mem_cons_of_mem _ hj)) (hstep i s u (hall i List.mem_cons_self) hu hs)

end

section
variable {i : Instr} {s t : State}

/-- While an item is on offer only TX.BYTE and TX.ABORT write a TX register (R52, R123). -/
theorem exec_tx_of_offer (hi : i ≠ .txByte ∧ i ≠ .txAbort) (h : exec i s = .next t) (ho : (txOffer s.tx).isSome) :
    t.tx = s.tx := by
  rcases exec_tx_cases h with he | ⟨n, op, -, hs, -⟩ | ⟨w, -, hs, -⟩ | ⟨rfl, -⟩ | ⟨rfl, -, -⟩
  · exact he
  · simp [txOffer_of_idle hs] at ho
  · simp [txOffer_of_wait hs] at ho
  · exact absurd rfl hi.2
  · exact absurd rfl hi.1

/-- In `T_WAIT` only TX.ARG and TX.ABORT write a TX register (R123). -/
theorem exec_tx_of_wait (hi : (∀ w, i ≠ .txArg w) ∧ i ≠ .txAbort) (h : exec i s = .next t) (hs : s.tx.state = .wait) :
    t.tx = s.tx := by
  rcases exec_tx_cases h with he | ⟨n, op, -, hs', -⟩ | ⟨w, rfl, -, -⟩ | ⟨rfl, -⟩ | ⟨-, ho, -⟩
  · exact he
  · simp [hs] at hs'
  · exact absurd rfl (hi.1 w)
  · exact absurd rfl hi.2
  · simp [txOffer_of_wait hs] at ho

theorem runInstrs_tx_of_offer {is : List Instr} (h : runInstrs is s = .next t)
    (hi : ∀ i ∈ is, i ≠ .txByte ∧ i ≠ .txAbort) (ho : (txOffer s.tx).isSome) : t.tx = s.tx :=
  runInstrs_keeps (P := fun u => u.tx = s.tx)
    (fun _ _ _ hi h he => (exec_tx_of_offer hi h (he ▸ ho)).trans he) h hi rfl

theorem txOffer_isSome_of_offering (h : Offering s.tx.state) : (txOffer s.tx).isSome := txValid_of_offering h

end

/-- Settles O27: while the item is on offer no TX register changes, and the offer is a function of these. -/
theorem offeredItemIsStable : Obligations.OfferedItemIsStable := fun _ _ _ _ h ho hi =>
  (congrArg txOffer (runInstrs_tx_of_offer h hi (by rw [ho, Option.isSome_some]))).trans ho

/-- Settles O28: in either state only the step the unit waits for and TX.ABORT write a TX register. -/
theorem txUnitWaitsForTheMissingStep : Obligations.TxUnitWaitsForTheMissingStep :=
  ⟨fun _ _ _ h ho hi => runInstrs_tx_of_offer h hi (txOffer_isSome_of_offering ho),
    fun _ s _ h hs hi => runInstrs_keeps (P := fun u => u.tx = s.tx)
      (fun _ _ _ hi h he => (exec_tx_of_wait hi h (he ▸ hs)).trans he) h hi rfl⟩

section
variable {i : Instr} {s t : State}

/-- In `R_ACTIVE` only the end mark and RX.CLEAR write `rx_state` and `rx_expect` (R154). -/
theorem exec_rx_of_active (hi : (∀ d, i ≠ .rxEnd d) ∧ i ≠ .rxClear) (h : exec i s = .next t)
    (hs : s.rx.state = .active) : t.rx.state = .active ∧ t.rx.expect = s.rx.expect := by
  rcases exec_rx_cases h with he | ⟨n, -, hs', -, -⟩ | ⟨rfl, -⟩ | ⟨b, -, -, htake⟩ | ⟨d, rfl, -, -⟩
  · rw [he]; exact ⟨hs, rfl⟩
  · simp [hs] at hs'
  · exact absurd rfl hi.2
  · obtain ⟨hstate, hexpect, -⟩ := rxTake_keeps htake
    exact ⟨hstate.trans hs, hexpect⟩
  · exact absurd rfl (hi.1 d)

/-- In `R_DONE` only RX.CLEAR writes an RX register (R154). -/
theorem exec_rx_of_done (hi : i ≠ .rxClear) (h : exec i s = .next t) (hs : s.rx.state = .done) : t.rx = s.rx := by
  rcases exec_rx_cases h with he | ⟨n, -, hs', -, -⟩ | ⟨rfl, -⟩ | ⟨b, -, hs', -⟩ | ⟨d, -, hs', -⟩
  · exact he
  · simp [hs] at hs'
  · exact absurd rfl hi
  · simp [hs] at hs'
  · simp [hs] at hs'

/-- The flags are sticky (R33, R34). -/
theorem exec_flags (hi : (∀ n, i ≠ .rxStart n) ∧ i ≠ .rxClear) (h : exec i s = .next t) :
    (s.rx.overflow = true → t.rx.overflow = true) ∧
    (s.rx.cerr = true → t.rx.cerr = true ∧ t.rx.cidx = s.rx.cidx) := by
  rcases exec_rx_cases h with he | ⟨n, rfl, -, -, -⟩ | ⟨rfl, -⟩ | ⟨b, -, -, htake⟩ | ⟨d, -, -, he⟩
  · rw [he]; exact ⟨id, fun hc => ⟨hc, rfl⟩⟩
  · exact absurd rfl (hi.1 n)
  · exact absurd rfl hi.2
  · obtain ⟨-, -, -, hover, hcerr⟩ := rxTake_keeps htake
    exact ⟨hover, hcerr⟩
  · rw [he]; exact ⟨id, fun hc => ⟨hc, rfl⟩⟩

/-- Only RX.BYTE, RX.END, RX.START and RX.CLEAR write an RX register. -/
theorem rx_writers (h : exec i s = .next t) (hne : t.rx ≠ s.rx) :
    (∃ b, i = .rxByte b) ∨ (∃ d, i = .rxEnd d) ∨ (∃ n, i = .rxStart n) ∨ i = .rxClear := by
  rcases exec_rx_cases h with he | ⟨n, hi, -⟩ | ⟨hi, -⟩ | ⟨b, hi, -⟩ | ⟨d, hi, -⟩
  · exact absurd he hne
  · exact .inr (.inr (.inl ⟨n, hi⟩))
  · exact .inr (.inr (.inr hi))
  · exact .inl ⟨b, hi⟩
  · exact .inr (.inl ⟨d, hi⟩)

end

/-- Settles O38: in `R_ACTIVE` and in `R_DONE` operation by operation, then along the sequence. -/
theorem rxUnitWaitsForTheMissingStep : Obligations.RxUnitWaitsForTheMissingStep := by
  refine ⟨fun is s t h hs hi => ?active, fun is s t h hs hi => ?done⟩
  case active =>
    exact runInstrs_keeps (P := fun u => u.rx.state = .active ∧ u.rx.expect = s.rx.expect)
      (fun _ _ _ hi h ⟨ha, he⟩ => (exec_rx_of_active hi h ha).imp_right (·.trans he)) h hi ⟨hs, rfl⟩
  case done =>
    exact runInstrs_keeps (P := fun u => u.rx = s.rx)
      (fun _ _ _ hi h he => (exec_rx_of_done hi h (he ▸ hs)).trans he) h hi rfl

/-- Settles O39: the flags operation by operation (`exec_flags`), then along the sequence; the writers are those of any
RX register, as none of the other operations writes one. -/
theorem rxFlagsAreSticky : Obligations.RxFlagsAreSticky := by
  refine ⟨fun is s t h hi => ⟨fun ho => ?overflow, fun hc => ?cerr⟩, fun i s t h hne => rx_writers h fun he => ?_⟩
  case overflow =>
    exact runInstrs_keeps (P := fun u => u.rx.overflow = true) (fun _ _ _ hi h => (exec_flags hi h).1) h hi ho
  case cerr =>
    refine runInstrs_keeps (P := fun u => u.rx.cerr = true ∧ u.rx.cidx = s.rx.cidx)
      (fun _ _ _ hi h ⟨hc, hx⟩ => ?_) h hi ⟨hc, rfl⟩
    obtain ⟨-, hsticky⟩ := exec_flags hi h
    exact (hsticky hc).imp_right (·.trans hx)
  · simp [he] at hne

end Sys2Proof.Machine

/-! # The buffer's frame (10_state.md R36) and the responses of the host commands (60_exceptions.md) -/

namespace Sys2Proof.Machine

open Sys2Proof.Claims

/-! ## The buffer -/

section
variable {cfg : Config} {b : Byte} {rx rx' : RxRegs}

/-- RX.BYTE writes the entry of `rxStore`, if there is one, and no other. -/
theorem rxTake_buf (h : rxTake cfg b rx = .ok rx') :
    (rxStore b rx = none ∧ rx'.buf = rx.buf) ∨
    ∃ e w, rxStore b rx = some (e, w) ∧ rx'.buf = Memory.put e.toNat w rx.buf := by
  rcases rxTake_cases h with ⟨hb, rfl⟩ | ⟨hb, hp, rfl⟩ | ⟨hb, hp, rfl⟩ | ⟨hb, hp, hc, -, rfl⟩ | ⟨hb, hp, hc, rfl⟩
  · exact .inl ⟨by rw [rxStore, if_pos hb], rfl⟩
  · exact .inl ⟨by simp [rxStore, hp], rfl⟩
  · exact .inl ⟨by simp [rxStore, hp], rfl⟩
  · exact .inr ⟨_, _, rxStore_good hb hp hc, rfl⟩
  · exact .inl ⟨rxStore_bad hb hp hc, by simp⟩

variable {i : Instr} {s t : State}

theorem buf_of_rxByte (h : exec (.rxByte b) s = .next t) (ha : s.rx.state = .active) :
    (∀ k, (∀ e w, rxStore b s.rx = some (e, w) → k ≠ e.toNat) → Memory.find k t.rx.buf = Memory.find k s.rx.buf) ∧
    (∀ e w, rxStore b s.rx = some (e, w) → Memory.find e.toNat t.rx.buf = some w) := by
  rcases execRxByte_cases h with ⟨-, rx, htake, rfl⟩ | ⟨hna, -⟩
  · rcases rxTake_buf htake with ⟨hnone, hbuf⟩ | ⟨e, w, hsome, hbuf⟩ <;> rw [State.withRx_rx, hbuf]
    · exact ⟨fun _ _ => rfl, fun e w he => by simp [hnone] at he⟩
    · refine ⟨fun k hk => Memory.find_put_other (hk e w hsome) .., fun e' w' he => ?_⟩
      obtain ⟨rfl, rfl⟩ : e = e' ∧ w = w' := by simpa [hsome] using he
      exact Memory.find_put_same ..
  · exact absurd ha hna

theorem buf_of_rxStart_or_rxClear (h : exec i s = .next t)
    (hi : (∃ n, i = .rxStart n) ∧ t.rx.state ≠ s.rx.state ∨ i = .rxClear) : t.rx.buf = [] := by
  rcases exec_rx_cases h with he | ⟨n, -, -, -, he⟩ | ⟨-, he⟩ | ⟨b, rfl, -⟩ | ⟨d, rfl, -⟩
  · rcases hi with ⟨-, hne⟩ | rfl
    · exact absurd (congrArg RxRegs.state he) hne
    · cases h; rfl
  · rw [he]; rfl
  · rw [he]; rfl
  · simp at hi
  · simp at hi

theorem buf_of_other (h : exec i s = .next t) (hb : (∀ b, i ≠ .rxByte b) ∨ s.rx.state ≠ .active) (hc : i ≠ .rxClear)
    (hs : (∀ n, i ≠ .rxStart n) ∨ t.rx.state = s.rx.state) : t.rx.buf = s.rx.buf := by
  rcases exec_rx_cases h with he | ⟨n, rfl, hidle, -, he⟩ | ⟨rfl, -⟩ | ⟨b, rfl, ha, -⟩ | ⟨d, -, -, he⟩
  · rw [he]
  · simp [he, hidle, rxStarted] at hs
  · exact absurd rfl hc
  · simp [ha] at hb
  · rw [he]

end

/-- Settles O49: RX.BYTE by `rxTake_buf`, the others by what they can do to the RX registers. -/
theorem bufferChangesOnlyWhereStored : Obligations.BufferChangesOnlyWhereStored := by
  intro i s t h
  refine ⟨fun b hi ha => ?_, fun hi k => ?_, fun hb hc hs k => ?_⟩
  · subst hi
    exact buf_of_rxByte h ha
  · rw [buf_of_rxStart_or_rxClear h hi, Memory.find_nil]
  · rw [buf_of_other h hb hc hs]

/-! ## What an operation gives out (R51 to R53) -/

section
variable {i : Instr} {s t : State}

theorem txByte_outputs (h : exec .txByte s = .next t) :
    t.ports.responses = s.ports.responses ∧ t.ports.tItems = s.ports.tItems ++ (txOffer s.tx).toList := by
  rcases execTxByte_cases h with ⟨it, ho, rfl⟩ | ⟨ho, rfl⟩ <;> simp [ho]

theorem rxByte_ports {b : Byte} (h : exec (.rxByte b) s = .next t) : t.ports = s.ports := by
  rcases execRxByte_cases h with ⟨-, rx, -, rfl⟩ | ⟨-, rfl⟩ <;> rfl

theorem rxEnd_ports {d : Byte} (h : exec (.rxEnd d) s = .next t) : t.ports = s.ports := by
  rcases execRxEnd_cases (d := d) h with ⟨-, rfl⟩ | ⟨-, rfl⟩ <;> rfl

/-- The status a host command is answered with (R191); `OK` for the transfers, which are not answered. -/
def statusOf (i : Instr) (s : State) : Status :=
  match i with
  | .txStart _ _ => if s.tx.state = .idle then .ok else .eState
  | .txArg _ => if s.tx.state = .wait then .ok else .eState
  | .rxStart n => if s.rx.state ≠ .idle then .eState else if s.config.maxResp < n.toNat then .eRange else .ok
  | .rxResult =>
    if s.rx.state ≠ .done then .eState
    else match s.rx.res with
      | .ok => .ok
      | .checksum => .eChecksum
      | .length => .eLength
  | .rxRdword k =>
    if s.rx.state ≠ .done ∨ s.rx.res ≠ .ok then .eState else if s.rx.expect ≤ k then .eRange else .ok
  | .crcGen _ => .ok
  | .crcChk _ _ => .ok
  | .txAbort => .ok
  | .txStat => .ok
  | .rxClear => .ok
  | .rxStat => .ok
  | .txByte => .ok
  | .rxByte _ => .ok
  | .rxEnd _ => .ok

/-- How a host command is answered: with one response of the status of R191 and no item; and with an error, with
nothing else changed and with the operands of R190 and R159. -/
structure Answered (i : Instr) (s t : State) (x : Byte) (v : Word) : Prop where
  response : t.ports.responses = s.ports.responses ++ [rspWord (statusOf i s) x v]
  items    : t.ports.tItems = s.ports.tItems
  error    : statusOf i s ≠ .ok → t = s.giveResponse (rspWord (statusOf i s) x v) ∧
    x = (if statusOf i s = .eChecksum then s.rx.cidx else 0) ∧ v = 0

theorem answered_ok {x : Byte} {v : Word} {u : State} (hst : statusOf i s = .ok)
    (hr : u.ports = s.ports) : Answered i s (u.giveResponse (rspWord .ok x v)) x v := by
  refine ⟨?_, ?_, fun hne => absurd hst hne⟩
  · rw [State.giveResponse_responses, hr, hst]
  · rw [State.giveResponse_tItems, hr]

theorem answered_error {st : Status} (hst : statusOf i s = st) (hne : st ≠ .eChecksum) :
    Answered i s (s.giveResponse (rspWord st 0 0)) 0 0 := by
  subst hst
  exact ⟨rfl, rfl, fun _ => ⟨rfl, (if_neg hne).symm, rfl⟩⟩

theorem exec_answered (hi : i.isHost = true) (h : exec i s = .next t) : ∃ x v, Answered i s t x v := by
  cases i with
  | crcGen w => cases h; exact ⟨_, _, answered_ok rfl rfl⟩
  | crcChk c w => cases h; exact ⟨_, _, answered_ok rfl rfl⟩
  | txStart n op =>
    rcases execTxStart_cases h with ⟨hs, rfl⟩ | ⟨hs, rfl⟩
    · exact ⟨_, _, answered_ok (if_pos hs) rfl⟩
    · exact ⟨_, _, answered_error (if_neg hs) nofun⟩
  | txArg w =>
    rcases execTxArg_cases h with ⟨hs, rfl⟩ | ⟨hs, rfl⟩
    · exact ⟨_, _, answered_ok (if_pos hs) rfl⟩
    · exact ⟨_, _, answered_error (if_neg hs) nofun⟩
  | txAbort => cases h; exact ⟨_, _, answered_ok rfl rfl⟩
  | txStat => cases h; exact ⟨_, _, answered_ok rfl rfl⟩
  | rxStart n =>
    rcases execRxStart_cases h with ⟨hs, rfl⟩ | ⟨hs, hn, rfl⟩ | ⟨hs, hn, rfl⟩
    · exact ⟨_, _, answered_error (if_pos hs) nofun⟩
    · exact ⟨_, _, answered_error (by simp [statusOf, hs, hn]) nofun⟩
    · exact ⟨_, _, answered_ok (by simp [statusOf, hs, Nat.not_lt.2 hn]) rfl⟩
  | rxResult =>
    rcases execRxResult_cases h with ⟨hs, rfl⟩ | ⟨hs, hr, rfl⟩ | ⟨hs, hr, rfl⟩ | ⟨hs, hr, rfl⟩
    · exact ⟨_, _, answered_error (if_pos hs) nofun⟩
    · exact ⟨_, _, answered_ok (by simp [statusOf, hs, hr]) rfl⟩
    · have hst : statusOf .rxResult s = .eChecksum := by simp [statusOf, hs, hr]
      exact ⟨s.rx.cidx, 0, by rw [hst]; rfl, rfl, fun _ => ⟨by rw [hst], by rw [hst, if_pos rfl], rfl⟩⟩
    · exact ⟨_, _, answered_error (by simp [statusOf, hs, hr]) nofun⟩
  | rxRdword k =>
    rcases execRxRdword_cases h with ⟨hs, rfl⟩ | ⟨hs, hr, hk, rfl⟩ | ⟨hs, hr, hk, -, w, -, rfl⟩
    · exact ⟨_, _, answered_error (if_pos hs) nofun⟩
    · exact ⟨_, _, answered_error (by simp [statusOf, hs, hr, hk]) nofun⟩
    · exact ⟨_, _, answered_ok (by simp [statusOf, hs, hr, BitVec.not_le.2 hk]) rfl⟩
  | rxClear => cases h; exact ⟨_, _, answered_ok rfl rfl⟩
  | rxStat => cases h; exact ⟨_, _, answered_ok rfl rfl⟩
  | txByte => cases hi
  | rxByte b => cases hi
  | rxEnd d => cases hi

theorem transfer_responses (hi : i.isHost = false) (h : exec i s = .next t) :
    t.ports.responses = s.ports.responses := by
  cases i with
  | txByte => exact (txByte_outputs h).1
  | rxByte b => rw [rxByte_ports h]
  | rxEnd d => rw [rxEnd_ports h]
  | _ => cases hi

theorem exec_tItems_of_ne_txByte (hi : i ≠ .txByte) (h : exec i s = .next t) : t.ports.tItems = s.ports.tItems := by
  cases hh : i.isHost with
  | true =>
    obtain ⟨x, v, ha⟩ := exec_answered hh h
    exact ha.items
  | false =>
    cases i with
    | txByte => exact absurd rfl hi
    | rxByte b => rw [rxByte_ports h]
    | rxEnd d => rw [rxEnd_ports h]
    | _ => cases hh

end

/-- Settles O47: the host commands by `exec_answered`, the transfers one by one. -/
theorem everyCommandIsAnsweredOnce : Obligations.EveryCommandIsAnsweredOnce := by
  intro i s t h
  obtain ⟨hcmds, hitems, hturns⟩ := exec_waiting h
  refine ⟨exec_config h, hcmds, hitems, hturns, fun hi => ?_, fun hi => transfer_responses hi h, fun hi => ?_,
    fun hi => exec_tItems_of_ne_txByte hi h⟩
  · obtain ⟨x, v, ha⟩ := exec_answered hi h
    exact ⟨ha.items, _, ha.response⟩
  · subst hi
    obtain ⟨-, hit⟩ := txByte_outputs h
    exact hit

/-! ## The fields of a response word (R76) -/

section
variable (st : Status) (x : Byte) (v : Word)

/-! A response word is laid out as a command word (R74, R76). -/

theorem rspSt_rspWord : rspSt (rspWord st x v) = st.code := cmdOp_cmdWord st.code x v

theorem rspX_rspWord : rspX (rspWord st x v) = x := cmdA_cmdWord st.code x v

theorem rspV_rspWord : rspV (rspWord st x v) = v := cmdD_cmdWord st.code x v

theorem reserved_rspWord : (rspWord st x v).extractLsb' 24 4 = 0 := cmdRsv_cmdWord st.code x v

end

theorem Status.code_inj {st st' : Status} : st.code = st'.code ↔ st = st' := by
  cases st <;> cases st' <;> decide

/-! ## The causes of each status (R191) -/

section
variable {i : Instr} {s t : State} {r : Word32}

/-- The causes of the four errors an operation can raise, command by command and branch by branch. -/
theorem statusOf_causes (i : Instr) (s : State) :
    (statusOf i s = .eState ↔
      ((∃ n op, i = .txStart n op) ∧ s.tx.state ≠ .idle) ∨ ((∃ w, i = .txArg w) ∧ s.tx.state ≠ .wait) ∨
      ((∃ n, i = .rxStart n) ∧ s.rx.state ≠ .idle) ∨ (i = .rxResult ∧ s.rx.state ≠ .done) ∨
      ((∃ k, i = .rxRdword k) ∧ (s.rx.state ≠ .done ∨ s.rx.res ≠ .ok))) ∧
    (statusOf i s = .eRange ↔
      (∃ n, i = .rxStart n ∧ s.rx.state = .idle ∧ s.config.maxResp < n.toNat) ∨
      (∃ k, i = .rxRdword k ∧ s.rx.state = .done ∧ s.rx.res = .ok ∧ s.rx.expect ≤ k)) ∧
    (statusOf i s = .eChecksum ↔ i = .rxResult ∧ s.rx.state = .done ∧ s.rx.res = .checksum) ∧
    (statusOf i s = .eLength ↔ i = .rxResult ∧ s.rx.state = .done ∧ s.rx.res = .length) ∧
    statusOf i s ≠ .eIllegal := by
  cases i with
  | txStart n op => by_cases hs : s.tx.state = .idle <;> simp [statusOf, hs]
  | txArg w => by_cases hs : s.tx.state = .wait <;> simp [statusOf, hs]
  | rxStart n =>
    by_cases hs : s.rx.state = .idle
    · by_cases hn : s.config.maxResp < n.toNat <;> simp [statusOf, hs, hn]
    · simp [statusOf, hs]
  | rxResult =>
    by_cases hs : s.rx.state = .done
    · cases hr : s.rx.res <;> simp [statusOf, hs, hr]
    · simp [statusOf, hs]
  | rxRdword k =>
    by_cases hs : s.rx.state ≠ .done ∨ s.rx.res ≠ .ok
    · have hno : ¬ (s.rx.state = .done ∧ s.rx.res = .ok ∧ s.rx.expect ≤ k) := fun ⟨hd, hr, _⟩ => hs.elim (· hd) (· hr)
      rw [statusOf, if_pos hs]
      simp [hs, hno]
    · obtain ⟨hd, hr⟩ : s.rx.state = .done ∧ s.rx.res = .ok := by simpa using hs
      by_cases hk : s.rx.expect ≤ k <;> simp [statusOf, hd, hr, hk]
  | _ => simp [statusOf]

/-- A response that an operation gave is that of a host command. -/
theorem exists_answered_of_response (h : exec i s = .next t)
    (hr : t.ports.responses = s.ports.responses ++ [r]) :
    ∃ x v, r = rspWord (statusOf i s) x v ∧ Answered i s t x v := by
  cases hi : i.isHost with
  | true =>
    obtain ⟨x, v, ha⟩ := exec_answered hi h
    exact ⟨x, v, by simpa using hr.symm.trans ha.response, ha⟩
  | false => simp [transfer_responses hi h] at hr

end

/-- Settles O50: the status field of the response is the code of `statusOf`, whose causes are told apart command by
command; the other fields are read off the response word. -/
theorem statusesHaveTheirCauses : Obligations.StatusesHaveTheirCauses := by
  intro i s t r h hr
  obtain ⟨x, v, rfl, ha⟩ := exists_answered_of_response h hr
  rw [rspSt_rspWord, rspX_rspWord, rspV_rspWord]
  obtain ⟨hstate, hrange, hchecksum, hlength, hillegal⟩ := statusOf_causes i s
  have hcode (st : Status) : (statusOf i s).code = st.code ↔ statusOf i s = st := Status.code_inj
  refine ⟨(hcode .eState).trans hstate, (hcode .eRange).trans hrange, (hcode .eChecksum).trans hchecksum,
    (hcode .eLength).trans hlength, mt (hcode .eIllegal).1 hillegal, ?_, reserved_rspWord .., fun hst => ?_,
    fun hst => ?_⟩
  · cases statusOf i s <;> decide
  · have hst : statusOf i s = .eState ∨ statusOf i s = .eRange ∨ statusOf i s = .eLength :=
      hst.imp (hcode _).1 (.imp (hcode _).1 (hcode _).1)
    obtain ⟨-, hx, hv⟩ := ha.error (by rcases hst with h | h | h <;> simp [h])
    exact ⟨hx.trans (if_neg (by rcases hst with h | h | h <;> simp [h])), hv⟩
  · have hst : statusOf i s = .eChecksum := (hcode _).1 hst
    obtain ⟨-, hx, hv⟩ := ha.error (by simp [hst])
    exact ⟨hx.trans (if_pos hst), hv⟩

/-- Settles O51: an answer with another status than `OK` is the whole of what was done (`exec_answered`). -/
theorem errorsChangeNoRegister : Obligations.ErrorsChangeNoRegister := by
  intro i s t r h hr hst
  obtain ⟨x, v, rfl, ha⟩ := exists_answered_of_response h hr
  have hne : statusOf i s ≠ .ok := fun hok => hst (by rw [rspSt_rspWord, hok]; rfl)
  obtain ⟨ht, -, -⟩ := ha.error hne
  exact ht

/-! ## Reads (R57) -/

section
variable {i : Instr} {s t : State} {r : Word32}

theorem exec_of_isRead (hi : IsRead i) (h : exec i s = .next t) : ∃ r, t = s.giveResponse r := by
  cases i with
  | crcGen w => cases h; exact ⟨_, rfl⟩
  | crcChk c w => cases h; exact ⟨_, rfl⟩
  | txStat => cases h; exact ⟨_, rfl⟩
  | rxStat => cases h; exact ⟨_, rfl⟩
  | rxResult =>
    rcases execRxResult_cases h with ⟨-, rfl⟩ | ⟨-, -, rfl⟩ | ⟨-, -, rfl⟩ | ⟨-, -, rfl⟩ <;> exact ⟨_, rfl⟩
  | rxRdword k =>
    rcases execRxRdword_cases h with ⟨-, rfl⟩ | ⟨-, -, -, rfl⟩ | ⟨-, -, -, -, w, -, rfl⟩ <;> exact ⟨_, rfl⟩
  | _ => cases hi

/-- What was only answered is answered alike when it is done again: nothing its effect depends on has changed. -/
theorem exec_again (h : exec i s = .next (s.giveResponse r)) :
    exec i (s.giveResponse r) = .next ((s.giveResponse r).giveResponse r) := by
  obtain ⟨e, he, heq⟩ := exists_hasEffect_eq_after h
  have htx : e.tx.getD s.tx = s.tx := (congrArg State.tx heq).symm
  have hrx : e.rx.getD s.rx = s.rx := (congrArg State.rx heq).symm
  have hrsp : e.responses = [r] := by simpa using (congrArg (fun t => t.ports.responses) heq).symm
  have hitems : e.items = [] := by simpa using (congrArg (fun t => t.ports.tItems) heq).symm
  rw [he.exec (s.giveResponse r) ⟨rfl, fun _ => rfl, fun _ => rfl⟩]
  simp [State.after, State.giveResponse, htx, hrx, hrsp, hitems]

end

/-- Settles O52: a read only answers (`exec_of_isRead`), and what only answers answers alike again (`exec_again`). -/
theorem readsAreIdempotent : Obligations.ReadsAreIdempotent := by
  intro i s t hi h
  obtain ⟨r, rfl⟩ := exec_of_isRead hi h
  exact ⟨r, rfl, exec_again h⟩

end Sys2Proof.Machine

/-! # The CRC-8 (40_crc8.md): the loop is linear, and what follows from that -/

namespace Sys2Proof.Machine

open Sys2Proof.Claims

/-! ## High and low byte of a word (R8) -/

section
variable (w u : Word) (h l : Byte)

theorem mkWord_hi_lo : mkWord (hi w) (lo w) = w := by
  have hall : hi w ++ lo w = w.extractLsb' 0 16 := BitVec.extractLsb'_append_extractLsb'_eq_extractLsb' rfl
  rw [mkWord, hall, BitVec.extractLsb'_eq_self]

theorem hi_mkWord : hi (mkWord h l) = h := by
  apply BitVec.eq_of_getLsbD_eq
  intro k hk
  simp only [hi, mkWord, BitVec.getLsbD_extractLsb', BitVec.getLsbD_append]
  simp [hk]

theorem lo_mkWord : lo (mkWord h l) = l := by
  apply BitVec.eq_of_getLsbD_eq
  intro k hk
  simp only [lo, mkWord, BitVec.getLsbD_extractLsb', BitVec.getLsbD_append]
  simp [hk]

theorem hi_xor : hi (w ^^^ u) = hi w ^^^ hi u := BitVec.extractLsb'_xor

theorem lo_xor : lo (w ^^^ u) = lo w ^^^ lo u := BitVec.extractLsb'_xor

end

/-! ## `^` with the numeral 0 -/

section
variable {n : Nat} (x y z : BitVec n)

theorem zero_xor_eq : 0 ^^^ x = x := BitVec.zero_xor

theorem xor_eq_zero : x ^^^ y = 0 ↔ x = y := BitVec.xor_eq_zero_iff

theorem xor_xor_cancel_left : x ^^^ (x ^^^ y) = y := by
  rw [← BitVec.xor_assoc, BitVec.xor_self]
  exact zero_xor_eq y

theorem xor_xor_xor_comm (u : BitVec n) : (x ^^^ y) ^^^ (z ^^^ u) = (x ^^^ z) ^^^ (y ^^^ u) := by
  ac_rfl

end

/-! ## The loop (R101) as a linear bijection `T` (R106, R107) -/

section
variable (r q c b : Byte)

theorem crcShift_eq : crcShift r = r <<< 1 ^^^ (if r.getLsbD 7 then crcPoly else 0) := by
  unfold crcShift
  split
  · rfl
  · exact BitVec.xor_zero.symm

theorem crcShift_xor : crcShift (r ^^^ q) = crcShift r ^^^ crcShift q := by
  have hpoly : (if (r ^^^ q).getLsbD 7 then crcPoly else 0) =
      (if r.getLsbD 7 then crcPoly else 0) ^^^ (if q.getLsbD 7 then crcPoly else 0) := by
    rw [BitVec.getLsbD_xor]
    cases r.getLsbD 7 <;> cases q.getLsbD 7 <;> rfl
  rw [crcShift_eq, crcShift_eq, crcShift_eq, hpoly, BitVec.shiftLeft_xor_distrib]
  ac_rfl

theorem crcShifts_xor (n : Nat) : crcShifts n (r ^^^ q) = crcShifts n r ^^^ crcShifts n q := by
  induction n generalizing r q with
  | zero => rfl
  | succ n ih => rw [crcShifts, crcShift_xor, ih, crcShifts, crcShifts]

theorem crcT_eq : crcT r = crcShifts 8 r := by
  rw [crcT, crc8Update, zero_xor_eq]

theorem crc8Update_eq_crcT : crc8Update c b = crcT (c ^^^ b) := by
  rw [crcT_eq, crc8Update]

theorem crcT_xor : crcT (r ^^^ q) = crcT r ^^^ crcT q := by
  rw [crcT_eq, crcT_eq, crcT_eq, crcShifts_xor]

theorem crcT_zero : crcT 0 = 0 := by decide +kernel

/-- A pass loses no bit: the polynomial sets bit 0 exactly when the top bit was shifted out. -/
theorem crcShift_eq_zero (h : crcShift r = 0) : r = 0 := by
  revert r
  decide +kernel

theorem crcShifts_eq_zero (n : Nat) (h : crcShifts n r = 0) : r = 0 := by
  induction n generalizing r with
  | zero => exact h
  | succ n ih => exact crcShift_eq_zero r (ih _ h)

theorem crcT_eq_zero_iff : crcT r = 0 ↔ r = 0 := by
  refine ⟨fun h => crcShifts_eq_zero r 8 ?_, fun h => h ▸ crcT_zero⟩
  rwa [crcT_eq] at h

theorem crcT_injective : Function.Injective crcT := fun r q h => by
  have hzero : crcT (r ^^^ q) = 0 := by rw [crcT_xor, h, (xor_eq_zero _ _).2 rfl]
  exact (xor_eq_zero r q).1 ((crcT_eq_zero_iff _).1 hzero)

theorem crcT_bijective : Function.Bijective crcT :=
  have : Finite Byte := .of_injective BitVec.toFin fun _ _ => BitVec.eq_of_toFin_eq
  Finite.injective_iff_bijective.1 crcT_injective

end

/-- Settles O13: both forms depend on `c ^ b` alone, and agree for its 256 values. -/
theorem crcParallelFormIsTheLoop : Obligations.CrcParallelFormIsTheLoop := by
  have hall : ∀ r : Byte, crc8Parallel 0 r = crcT r := by decide +kernel
  intro c b
  have hxor : crc8Parallel c b = crc8Parallel 0 (c ^^^ b) := by simp only [crc8Parallel, zero_xor_eq]
  rw [hxor, hall, crc8Update_eq_crcT]

/-- Settles O14: the entry of `c ^ b` is compared with `T` of it, for its 256 values. -/
theorem crcTableIsTheLoop : Obligations.CrcTableIsTheLoop := by
  have hall : ∀ r : Byte, crcTable[r.toNat]? = some (crcT r) := by decide +kernel
  refine ⟨by decide +kernel, fun c b => ?_⟩
  rw [hall, crc8Update_eq_crcT]

/-! ## The checksum of a word (R103, R104) -/

/-- The linear part of `crc8_word`. -/
def crcWordT (w : Word) : Byte := crcT (crcT (hi w) ^^^ lo w)

section
variable (w u : Word) (c h : Byte)

theorem crc8Word_eq_crcT : crc8Word w = crcT (crcT (crcInit ^^^ hi w) ^^^ lo w) := by
  rw [crc8Word, crc8Update_eq_crcT, crc8Update_eq_crcT]

theorem crcWordT_xor : crcWordT (w ^^^ u) = crcWordT w ^^^ crcWordT u := by
  rw [crcWordT, hi_xor, lo_xor, crcT_xor (hi w), xor_xor_xor_comm, crcT_xor, crcWordT, crcWordT]

theorem crc8Word_eq_crcWordT : crc8Word w = crcWordT w ^^^ crc8Word 0 := by
  have hzero : crc8Word 0 = crcT (crcT crcInit) := by decide +kernel
  rw [crc8Word_eq_crcT, hzero, crcT_xor crcInit, BitVec.xor_assoc, crcT_xor, BitVec.xor_comm, crcWordT]

theorem crc8Word_xor : crc8Word (w ^^^ u) = crc8Word w ^^^ crcWordT u := by
  rw [crc8Word_eq_crcWordT (w ^^^ u), crc8Word_eq_crcWordT w, crcWordT_xor, BitVec.xor_assoc, BitVec.xor_assoc,
    BitVec.xor_comm (crcWordT u)]

theorem existsUnique_low_byte : ∃! l : Byte, crc8Word (mkWord h l) = c := by
  obtain ⟨r, rfl⟩ := crcT_bijective.2 c
  have hiff (l : Byte) : crc8Word (mkWord h l) = crcT r ↔ crcT (crcInit ^^^ h) ^^^ l = r := by
    rw [crc8Word_eq_crcT, hi_mkWord, lo_mkWord, crcT_injective.eq_iff]
  refine ⟨crcT (crcInit ^^^ h) ^^^ r, (hiff _).2 ?_, fun l hl => ?_⟩
  · exact xor_xor_cancel_left ..
  · rw [← (hiff l).1 hl, xor_xor_cancel_left]

theorem crc8Bytes_group_eq_zero_iff : crc8Bytes [hi w, lo w, c] = 0 ↔ crc8Check w c = true := by
  have hbytes : crc8Bytes [hi w, lo w, c] = crcT (crc8Word w ^^^ c) := crc8Update_eq_crcT (crc8Word w) c
  rw [hbytes, crcT_eq_zero_iff, xor_eq_zero, crc8Check, beq_iff_eq]

theorem crc8Check_iff : crc8Check w c = true ↔ crc8Word w = c := beq_iff_eq

end

/-- Settles O15: the laws of the linear bijection `T`, carried to words. -/
theorem crcArithmeticLaws : Obligations.CrcArithmeticLaws := by
  refine ⟨crcT_xor, crcT_zero, fun c b => by rw [crc8Update_eq_crcT, crcT_xor], crcT_bijective, crcT_eq_zero_iff,
    fun u v => ?_, by decide +kernel, existsUnique_low_byte, by decide +kernel⟩
  have hv : crcWordT v = crc8Word v ^^^ crc8Word 0 := by
    rw [crc8Word_eq_crcWordT v, BitVec.xor_comm, BitVec.xor_comm (crcWordT v), xor_xor_cancel_left]
  rw [crc8Word_xor, hv, BitVec.xor_assoc]

/-- Settles O16: the third byte is one more update, of which only 0 gives 0. -/
theorem zeroResidueExactlyWhenChecked : Obligations.ZeroResidueExactlyWhenChecked := crc8Bytes_group_eq_zero_iff

/-- Settles O19: the answer is the match as a 1-bit value; the matching byte is `crc8_word`. -/
theorem crcChkAnswersTheMatch : Obligations.CrcChkAnswersTheMatch := by
  refine ⟨fun _ _ => rfl, fun c w s => ?_, fun w => ⟨crc8Word w, ?_, fun c hc => ?_⟩, by decide +kernel⟩
  · cases hm : crc8Check w c with
    | true => rw [if_pos ((crc8Check_iff w c).1 hm), exec, execCrcChk, hm]; rfl
    | false => rw [if_neg (mt (crc8Check_iff w c).2 (Bool.eq_false_iff.1 hm)), exec, execCrcChk, hm]; rfl
  · exact (crc8Check_iff w _).2 rfl
  · exact ((crc8Check_iff w c).1 hc).symm

/-! ## The weight of an error pattern -/

section
variable {n m : Nat}

/-- How many bits are set. -/
def weight (x : BitVec n) : Nat := ((List.range n).filter fun i => x.getLsbD i).length

theorem weight_append (x : BitVec n) (y : BitVec m) : weight (x ++ y) = weight x + weight y := by
  have hlow : (List.range m).filter (fun i => (x ++ y).getLsbD i) = (List.range m).filter fun i => y.getLsbD i :=
    List.filter_congr fun i hi => by simp [BitVec.getLsbD_append, List.mem_range.1 hi]
  have hhigh : (fun i => (x ++ y).getLsbD i) ∘ (fun i => m + i) = fun i => x.getLsbD i := by
    funext i
    simp [BitVec.getLsbD_append]
  have hrange : List.range (n + m) = List.range m ++ (List.range n).map fun i => m + i := by
    rw [Nat.add_comm, List.range_add]
  simp only [weight, hrange, List.filter_append, List.filter_map, hhigh, hlow, List.length_append, List.length_map]
  exact Nat.add_comm ..

theorem bodd_length_filter_xor (p q : Nat → Bool) (l : List Nat) :
    (l.filter fun i => p i ^^ q i).length.bodd = ((l.filter p).length.bodd ^^ (l.filter q).length.bodd) := by
  induction l with
  | nil => simp
  | cons i l ih =>
    simp only [List.filter_cons]
    cases p i <;> cases q i <;> simp [ih, Nat.bodd_succ]

theorem bodd_weight_xor (x y : BitVec n) : (weight (x ^^^ y)).bodd = ((weight x).bodd ^^ (weight y).bodd) := by
  simp only [weight, BitVec.getLsbD_xor, bodd_length_filter_xor]

end

/-! ## What the check sees of an error pattern (R108) -/

/-- The pattern's word and byte run through the linear part of the check. -/
def syndrome (e : BitVec 24) : Byte := crcWordT (e.extractLsb' 8 16) ^^^ e.extractLsb' 0 8

section
variable (w : Word) (e e' : BitVec 24)

theorem word_groupBits : (groupBits w).extractLsb' 8 16 = w := by
  have hword : hi w ++ lo w = w := mkWord_hi_lo w
  rw [groupBits, hword]
  apply BitVec.eq_of_getLsbD_eq
  intro k hk
  simp only [BitVec.getLsbD_extractLsb', BitVec.getLsbD_append]
  simp [hk]

theorem crc_groupBits : (groupBits w).extractLsb' 0 8 = crc8Word w := by
  apply BitVec.eq_of_getLsbD_eq
  intro k hk
  simp only [groupBits, BitVec.getLsbD_extractLsb', BitVec.getLsbD_append]
  simp [hk]

/-- Whether an altered group passes does not depend on the word. -/
theorem groupPasses_altered : groupPasses (groupBits w ^^^ e) = true ↔ syndrome e = 0 := by
  rw [groupPasses, crc8Check_iff, BitVec.extractLsb'_xor, BitVec.extractLsb'_xor, word_groupBits, crc_groupBits,
    crc8Word_xor, syndrome, xor_eq_zero]
  exact BitVec.xor_right_inj _

theorem syndrome_xor : syndrome (e ^^^ e') = syndrome e ^^^ syndrome e' := by
  rw [syndrome, BitVec.extractLsb'_xor, BitVec.extractLsb'_xor, crcWordT_xor, xor_xor_xor_comm, syndrome, syndrome]

/-- The generator has an even number of terms, so `T` keeps the parity. -/
theorem bodd_weight_crcT : ∀ r : Byte, (weight (crcT r)).bodd = (weight r).bodd := by decide +kernel

theorem bodd_weight_syndrome : (weight (syndrome e)).bodd = (flips e).bodd := by
  have hsplit : hi (e.extractLsb' 8 16) ++ lo (e.extractLsb' 8 16) ++ e.extractLsb' 0 8 = e := by
    have hword : hi (e.extractLsb' 8 16) ++ lo (e.extractLsb' 8 16) = e.extractLsb' 8 16 := mkWord_hi_lo _
    have hall : e.extractLsb' 8 16 ++ e.extractLsb' 0 8 = e.extractLsb' 0 24 :=
      BitVec.extractLsb'_append_extractLsb'_eq_extractLsb' rfl
    rw [hword, hall, BitVec.extractLsb'_eq_self]
  have hflips : flips e = weight (hi (e.extractLsb' 8 16) ++ lo (e.extractLsb' 8 16) ++ e.extractLsb' 0 8) := by
    rw [hsplit]; rfl
  rw [hflips, weight_append, weight_append, syndrome, bodd_weight_xor, crcWordT, bodd_weight_crcT, bodd_weight_xor,
    bodd_weight_crcT, Nat.bodd_add, Nat.bodd_add]

variable {e}

theorem syndrome_ne_zero_of_odd (h : (flips e).bodd = true) : syndrome e ≠ 0 := fun h0 => by
  rw [← bodd_weight_syndrome, h0] at h
  exact absurd h (by decide)

theorem eq_twoPow_xor_twoPow_of_flips_eq_two (h : flips e = 2) :
    ∃ i j : Fin 24, i ≠ j ∧ e = BitVec.twoPow 24 i ^^^ BitVec.twoPow 24 j := by
  obtain ⟨i, j, hij⟩ := List.length_eq_two.1 h
  have hmem (k : Nat) : k = i ∨ k = j ↔ k < 24 ∧ e.getLsbD k = true := by
    rw [← List.mem_range, ← List.mem_filter (p := fun k => e.getLsbD k), hij, List.mem_pair]
  have hne : i ≠ j := by
    have hnodup : [i, j].Nodup := hij ▸ List.nodup_range.filter _
    simpa using hnodup
  obtain ⟨hi, -⟩ := (hmem i).1 (.inl rfl)
  obtain ⟨hj, -⟩ := (hmem j).1 (.inr rfl)
  refine ⟨⟨i, hi⟩, ⟨j, hj⟩, fun hf => hne (congrArg Fin.val hf), BitVec.eq_of_getLsbD_eq fun k hk => ?_⟩
  have hbit : e.getLsbD k = decide (k = i ∨ k = j) := by simp [hmem, hk]
  rw [hbit, BitVec.getLsbD_xor, BitVec.getLsbD_twoPow, BitVec.getLsbD_twoPow]
  by_cases hki : k = i
  · subst hki
    simp [hk, hne, hne.symm]
  · simp [hki, Ne.symm hki, hj, eq_comm (a := j)]

/-- The single-bit syndromes are pairwise different. -/
theorem syndrome_twoPow_injective :
    ∀ i j : Fin 24, syndrome (BitVec.twoPow 24 i) = syndrome (BitVec.twoPow 24 j) → i = j := by decide +kernel

theorem syndrome_ne_zero_of_two (h : flips e = 2) : syndrome e ≠ 0 := by
  obtain ⟨i, j, hij, rfl⟩ := eq_twoPow_xor_twoPow_of_flips_eq_two h
  rw [syndrome_xor, Ne, xor_eq_zero]
  exact mt (syndrome_twoPow_injective i j) hij

theorem syndrome_ne_zero (h1 : 1 ≤ flips e) (h : flips e ≤ 3 ∨ flips e = 5) : syndrome e ≠ 0 := by
  have hcases : flips e = 1 ∨ flips e = 2 ∨ flips e = 3 ∨ flips e = 5 := by omega
  rcases hcases with hf | hf | hf | hf
  · exact syndrome_ne_zero_of_odd (by rw [hf]; rfl)
  · exact syndrome_ne_zero_of_two hf
  · exact syndrome_ne_zero_of_odd (by rw [hf]; rfl)
  · exact syndrome_ne_zero_of_odd (by rw [hf]; rfl)

end

/-- Settles O17: an alteration passes when its syndrome is 0; that of an odd number of bits has odd weight, that of two
bits is the difference of two different bytes, and that of the generator itself, of weight 4, is 0. -/
theorem crcMinimumDistanceIsFour : Obligations.CrcMinimumDistanceIsFour := by
  refine ⟨fun w e h1 h => ?_, 0x131, by decide, fun w => (groupPasses_altered w _).2 (by decide +kernel)⟩
  exact Bool.eq_false_iff.2 (mt (groupPasses_altered w e).1 (syndrome_ne_zero h1 h))

end Sys2Proof.Machine

/-! # The document's functions (41_tx_encoder.md R120, R121, 42_rx_decoder.md R150 to R153) -/

namespace Sys2Proof.Machine

open Sys2Proof.Claims

/-! ## `decode_response` group by group -/

section
variable {h l c : Byte} {k : Nat} {rest : List Byte}

theorem decodeGroups_cons_of_crc_eq (hc : crc8Word (mkWord h l) = c) :
    decodeGroups k (h :: l :: c :: rest) = (decodeGroups (k + 1) rest).map (mkWord h l :: ·) := by
  rw [decodeGroups, if_neg (not_not_intro hc)]
  cases decodeGroups (k + 1) rest <;> rfl

theorem decodeGroups_cons_of_crc_ne (hc : crc8Word (mkWord h l) ≠ c) :
    decodeGroups k (h :: l :: c :: rest) = .error (.checksum k) := by
  rw [decodeGroups, if_pos hc]

theorem decodeResponse_of_length {bs : List Byte} {n : Nat} (h : bs.length = 3 * n) :
    decodeResponse bs n = decodeGroups 0 bs := by
  rw [decodeResponse, if_neg (not_not_intro h)]

theorem decodeResponse_of_length_ne {bs : List Byte} {n : Nat} (h : bs.length ≠ 3 * n) :
    decodeResponse bs n = .error .length := by
  rw [decodeResponse, if_pos h]

end

/-! ## `encode_words` -/

section
variable (w : Word) (ws : List Word) (op : Word)

theorem encodeWords_cons : encodeWords (w :: ws) = hi w :: lo w :: crc8Word w :: encodeWords ws := rfl

theorem length_encodeWords : (encodeWords ws).length = 3 * ws.length := by
  induction ws with
  | nil => rfl
  | cons w ws ih =>
    simp only [encodeWords_cons, List.length_cons, ih]
    omega

theorem decodeGroups_encodeWords (k : Nat) : decodeGroups k (encodeWords ws) = .ok ws := by
  induction ws generalizing k with
  | nil => rfl
  | cons w ws ih =>
    rw [encodeWords_cons, decodeGroups_cons_of_crc_eq (by rw [mkWord_hi_lo]), ih, mkWord_hi_lo]
    rfl

theorem decodeResponse_encodeWords : decodeResponse (encodeWords ws) ws.length = .ok ws := by
  rw [decodeResponse_of_length (length_encodeWords ws), decodeGroups_encodeWords]

theorem drop_two_encodeCommand : (encodeCommand op ws).drop 2 = encodeWords ws := rfl

end

/-- Settles O42, by induction on the words: each group checks. -/
theorem decodingAnEncodingGivesTheWords : Obligations.DecodingAnEncodingGivesTheWords :=
  ⟨decodeResponse_encodeWords, fun op ws => by rw [drop_two_encodeCommand, decodeResponse_encodeWords]⟩

/-! ## Altered groups (R153) -/

section
variable {e : BitVec 24} {k : Nat}

theorem flips_pos (he : e ≠ 0) : 1 ≤ flips e := by
  by_contra hlt
  have hnil : (List.range 24).filter (fun i => e.getLsbD i) = [] :=
    List.length_eq_zero_iff.1 (by simpa [flips] using hlt)
  refine he (BitVec.eq_of_getLsbD_eq fun i hi => ?_)
  simpa using List.filter_eq_nil_iff.1 hnil i (List.mem_range.2 hi)

theorem decodeGroups_bytesOf_of_passes {g : BitVec 24} {rest : List Byte} (hg : groupPasses g = true) :
    decodeGroups k (bytesOf g ++ rest) = (decodeGroups (k + 1) rest).map (g.extractLsb' 8 16 :: ·) := by
  have hword : mkWord (g.extractLsb' 16 8) (g.extractLsb' 8 8) = g.extractLsb' 8 16 :=
    BitVec.extractLsb'_append_extractLsb'_eq_extractLsb' rfl
  rw [← hword]
  exact decodeGroups_cons_of_crc_eq (hword ▸ (crc8Check_iff _ _).1 hg)

theorem decodeGroups_bytesOf_of_fails {g : BitVec 24} {rest : List Byte} (hg : groupPasses g = false) :
    decodeGroups k (bytesOf g ++ rest) = .error (.checksum k) := by
  have hword : mkWord (g.extractLsb' 16 8) (g.extractLsb' 8 8) = g.extractLsb' 8 16 :=
    BitVec.extractLsb'_append_extractLsb'_eq_extractLsb' rfl
  exact decodeGroups_cons_of_crc_ne (hword ▸ mt (crc8Check_iff _ _).2 (Bool.eq_false_iff.1 hg))

theorem groupPasses_groupBits (w : Word) : groupPasses (groupBits w) = true := by
  rw [← BitVec.xor_zero (x := groupBits w), groupPasses_altered]
  decide +kernel

theorem groupPasses_of_few_flips (w : Word) (he : e ≠ 0) (hf : flips e ≤ 3) :
    groupPasses (groupBits w ^^^ e) = false :=
  Bool.eq_false_iff.2 (mt (groupPasses_altered w e).1 (syndrome_ne_zero (flips_pos he) (.inl hf)))

theorem length_alteredBytes (l : List (Word × BitVec 24)) : (alteredBytes l).length = 3 * l.length := by
  induction l with
  | nil => rfl
  | cons p l ih =>
    simp only [alteredBytes, List.length_append, ih, bytesOf, List.length_cons, List.length_nil]
    omega

/-- What `decode_response` says of groups of which the first altered one, counted from `k`, is given. -/
def alterationResult (l : List (Word × BitVec 24)) : Option Nat → Except FrameError (List Word)
  | none => .ok (l.map Prod.fst)
  | some k => .error (.checksum k)

theorem decodeGroups_alteredBytes (l : List (Word × BitVec 24)) (k : Nat) (hl : ∀ p ∈ l, flips p.2 ≤ 3) :
    decodeGroups k (alteredBytes l) = alterationResult l (firstAltered k l) := by
  induction l generalizing k with
  | nil => rfl
  | cons p l ih =>
    obtain ⟨w, e⟩ := p
    have hrest : ∀ p ∈ l, flips p.2 ≤ 3 := fun p hp => hl p (List.mem_cons_of_mem _ hp)
    have hhead : flips e ≤ 3 := hl (w, e) List.mem_cons_self
    rw [alteredBytes, firstAltered]
    by_cases he : e = 0
    · subst he
      have hxor : groupBits w ^^^ 0 = groupBits w := BitVec.xor_zero
      rw [if_pos rfl, hxor, decodeGroups_bytesOf_of_passes (groupPasses_groupBits w), word_groupBits, ih _ hrest]
      cases firstAltered (k + 1) l <;> rfl
    · rw [if_neg he, decodeGroups_bytesOf_of_fails (groupPasses_of_few_flips w he hhead)]
      rfl

theorem decodeGroups_encodeWords_modify {f : Byte → Byte} (hf : ∀ c, f c ≠ c) (ws : List Word) (i : Nat)
    (hlt : i < ws.length) (k : Nat) :
    decodeGroups k ((encodeWords ws).modify (3 * i + 2) f) = .error (.checksum (k + i)) := by
  induction ws generalizing i k with
  | nil => cases hlt
  | cons w ws ih =>
    rw [encodeWords_cons]
    cases i with
    | zero =>
      have hmod : (hi w :: lo w :: crc8Word w :: encodeWords ws).modify 2 f =
          hi w :: lo w :: f (crc8Word w) :: encodeWords ws := rfl
      rw [Nat.mul_zero, Nat.zero_add, hmod, decodeGroups_cons_of_crc_ne (by rw [mkWord_hi_lo]; exact (hf _).symm)]
      rfl
    | succ i =>
      have hmod : (hi w :: lo w :: crc8Word w :: encodeWords ws).modify (3 * (i + 1) + 2) f =
          hi w :: lo w :: crc8Word w :: (encodeWords ws).modify (3 * i + 2) f := rfl
      rw [hmod, decodeGroups_cons_of_crc_eq (by rw [mkWord_hi_lo]), ih i (Nat.lt_of_succ_lt_succ hlt) (k + 1),
        Nat.add_right_comm]
      rfl

theorem xor_bit_ne (c : Byte) {j : Nat} (hj : j < 8) : c ^^^ (1 <<< j) ≠ c := by
  have hbits : ∀ j < 8, ((1 <<< j : Nat) : Byte) ≠ 0 := by decide
  intro h
  refine hbits j hj ?_
  rw [← xor_xor_cancel_left c (1 <<< j : Nat), h]
  exact BitVec.xor_self

end

/-- Settles O43: group by group, where up to three flips never pass (`groupPasses_of_few_flips`); and along the words up
to the one whose checksum byte was changed. -/
theorem corruptionIsReportedAtTheFirstGroup : Obligations.CorruptionIsReportedAtTheFirstGroup := by
  refine ⟨fun l hl => ?_, fun ws i j hi hj => ?_⟩
  · rw [decodeResponse_of_length (length_alteredBytes l), decodeGroups_alteredBytes l 0 hl]
    cases firstAltered 0 l <;> rfl
  · have hlen : ((encodeWords ws).modify (3 * i + 2) fun c => c ^^^ (1 <<< j)).length = 3 * ws.length := by
      rw [List.length_modify, length_encodeWords]
    rw [decodeResponse_of_length hlen, decodeGroups_encodeWords_modify (fun c => xor_bit_ne c hj) ws i hi, Nat.zero_add]

end Sys2Proof.Machine

/-! # ENCODE on the block (41_tx_encoder.md R130, 30_encoding.md R85) -/

namespace Sys2Proof.Machine

open Sys2Proof.Claims

/-! ## The T items of a frame -/

section
variable (op w : Word) (ws : List Word)

theorem frameItems_cons (b : Byte) (bs : List Byte) : frameItems (b :: bs) = tItem bs.isEmpty b :: frameItems bs := by
  cases bs <;> rfl

theorem isEmpty_encodeWords : (encodeWords ws).isEmpty = ws.isEmpty := by
  cases ws <;> rfl

theorem frameItems_encodeWords_cons : frameItems (encodeWords (w :: ws)) =
    [tItem false (hi w), tItem false (lo w), tItem ws.isEmpty (crc8Word w)] ++ frameItems (encodeWords ws) := by
  rw [encodeWords_cons, frameItems_cons, frameItems_cons, frameItems_cons, isEmpty_encodeWords]
  rfl

theorem frameItems_encodeCommand : frameItems (encodeCommand op ws) =
    [tItem false (hi op), tItem ws.isEmpty (lo op)] ++ frameItems (encodeWords ws) := by
  have hcmd : encodeCommand op ws = hi op :: lo op :: encodeWords ws := rfl
  rw [hcmd, frameItems_cons, frameItems_cons, isEmpty_encodeWords]
  rfl

theorem length_encodeCommand : (encodeCommand op ws).length = 2 + 3 * ws.length := by
  rw [encodeCommand, List.length_append, length_encodeWords]
  rfl

end

/-! ## The steps of one part of the frame -/

section
variable {s : State} (n : Byte) (op w : Word)

/-- The TX registers after the opcode's two bytes have been taken. -/
def txOpcodeSent (tx : TxRegs) : TxRegs :=
  { txStarted n op tx with state := if n = 0 then .idle else .wait }

/-- The TX registers after an argument's three bytes have been taken. -/
def txArgSent (tx : TxRegs) : TxRegs :=
  { txArgTaken w tx with state := if tx.rem - 1 = 0 then .idle else .wait }

theorem runInstrs_opcode (h : s.tx.state = .idle) :
    runInstrs [.txStart n op, .txByte, .txByte] s = .next (s.after ⟨some (txOpcodeSent n op s.tx), none, [0],
      [tItem false (hi op), tItem (n == 0) (lo op)]⟩) := by
  rw [runInstrs_cons (exec_txStart_of_idle n op h),
    runInstrs_cons (exec_txByte_of_offer (txOffer_of_oph rfl) (txNextState_of_oph rfl)),
    runInstrs_cons (exec_txByte_of_offer (txOffer_of_opl rfl) (txNextState_of_opl rfl)), runInstrs_nil]
  simp only [State.after, State.giveItem, State.giveResponse, State.withTx, List.append_assoc]
  rfl

theorem runInstrs_argSteps (h : s.tx.state = .wait) :
    runInstrs (argSteps w) s = .next (s.after ⟨some (txArgSent w s.tx), none, [0],
      [tItem false (hi w), tItem false (lo w), tItem (s.tx.rem - 1 == 0) (crc8Word w)]⟩) := by
  rw [argSteps, runInstrs_cons (exec_txArg_of_wait w h),
    runInstrs_cons (exec_txByte_of_offer (txOffer_of_ah rfl) (txNextState_of_ah rfl)),
    runInstrs_cons (exec_txByte_of_offer (txOffer_of_al rfl) (txNextState_of_al rfl)),
    runInstrs_cons (exec_txByte_of_offer (txOffer_of_ac rfl) (txNextState_of_ac rfl)), runInstrs_nil]
  simp only [State.after, State.giveItem, State.giveResponse, State.withTx, List.append_assoc]
  rfl

end

/-! ## The steps of the whole frame, by induction on the arguments -/

section
variable {s : State}

/-- The unit stands between two parts of a frame of which `n` arguments are still to come (R127, R27(e)). -/
structure AwaitsArgs (n : Nat) (tx : TxRegs) : Prop where
  bound : n ≤ 255
  rem   : tx.rem = BitVec.ofNat 8 n
  state : tx.state = if n = 0 then .idle else .wait

theorem ofNat_eq_zero_iff {n : Nat} (h : n ≤ 255) : BitVec.ofNat 8 n = 0 ↔ n = 0 := by
  constructor
  · intro h0
    have hnat : (BitVec.ofNat 8 n).toNat = 0 := congrArg BitVec.toNat h0
    rw [BitVec.toNat_ofNat] at hnat
    omega
  · rintro rfl; rfl

theorem ofNat_beq_zero {ws : List Word} (h : ws.length ≤ 255) : (BitVec.ofNat 8 ws.length == 0) = ws.isEmpty := by
  rw [Bool.eq_iff_iff, beq_iff_eq, ofNat_eq_zero_iff h, List.isEmpty_iff, List.length_eq_zero_iff]

theorem AwaitsArgs.opcodeSent {n : Nat} (hn : n ≤ 255) (op : Word) (tx : TxRegs) :
    AwaitsArgs n (txOpcodeSent (BitVec.ofNat 8 n) op tx) :=
  ⟨hn, rfl, by simp only [txOpcodeSent, ofNat_eq_zero_iff hn]⟩

theorem AwaitsArgs.rem_sub_one {n : Nat} {tx : TxRegs} (h : AwaitsArgs (n + 1) tx) : tx.rem - 1 = BitVec.ofNat 8 n := by
  rw [h.rem]
  bv_omega

theorem AwaitsArgs.argSent {n : Nat} {tx : TxRegs} (h : AwaitsArgs (n + 1) tx) (w : Word) :
    AwaitsArgs n (txArgSent w tx) := by
  have hn : n ≤ 255 := Nat.le_of_succ_le h.bound
  exact ⟨hn, h.rem_sub_one, by simp only [txArgSent, h.rem_sub_one, ofNat_eq_zero_iff hn]⟩

/-- Effects on the TX unit add up. -/
theorem State.after_tx_after_tx (tx tx' : TxRegs) (rs rs' : List Word32) (its its' : List Item) :
    (s.after ⟨some tx, none, rs, its⟩).after ⟨some tx', none, rs', its'⟩ =
      s.after ⟨some tx', none, rs ++ rs', its ++ its'⟩ := by
  simp [State.after]

theorem runInstrs_flatMap_argSteps (args : List Word) (h : AwaitsArgs args.length s.tx) :
    ∃ tx, AwaitsArgs 0 tx ∧ runInstrs (args.flatMap argSteps) s =
      .next (s.after ⟨some tx, none, List.replicate args.length 0, frameItems (encodeWords args)⟩) := by
  induction args generalizing s with
  | nil => exact ⟨s.tx, h, congrArg Host.Outcome.next (by simp [State.after, encodeWords, frameItems])⟩
  | cons w ws ih =>
    have hrun := runInstrs_argSteps w (h.state.trans (if_neg (Nat.succ_ne_zero _)))
    obtain ⟨tx, htx, hrest⟩ := ih (s := s.after ⟨some (txArgSent w s.tx), none, [0],
      [tItem false (hi w), tItem false (lo w), tItem (s.tx.rem - 1 == 0) (crc8Word w)]⟩) (h.argSent w)
    refine ⟨tx, htx, ?_⟩
    rw [List.flatMap_cons, runInstrs_append hrun, hrest, State.after_tx_after_tx, h.rem_sub_one,
      ofNat_beq_zero (h.argSent w).bound, ← frameItems_encodeWords_cons, List.length_cons, List.replicate_succ,
      List.singleton_append]

/-- R130: the effect of ENCODE from `T_IDLE`. -/
theorem runInstrs_encodeMacro (op : Word) (args : List Word) (hlen : args.length ≤ 255) (hs : s.tx.state = .idle) :
    ∃ tx, AwaitsArgs 0 tx ∧ runInstrs (encodeMacro op args) s =
      .next (s.after ⟨some tx, none, List.replicate (1 + args.length) 0, frameItems (encodeCommand op args)⟩) := by
  have hrun := runInstrs_opcode (BitVec.ofNat 8 args.length) op hs
  obtain ⟨tx, htx, hrest⟩ := runInstrs_flatMap_argSteps (s := s.after ⟨some (txOpcodeSent _ op s.tx), none, [0],
    [tItem false (hi op), tItem (BitVec.ofNat 8 args.length == 0) (lo op)]⟩) args (.opcodeSent hlen op s.tx)
  refine ⟨tx, htx, ?_⟩
  rw [encodeMacro, runInstrs_append hrun, hrest, State.after_tx_after_tx, ofNat_beq_zero hlen,
    ← frameItems_encodeCommand, Nat.add_comm, List.replicate_succ, List.singleton_append]

end

/-- Settles O29, by induction on the arguments: between two parts the unit stands as `AwaitsArgs` says, and each part
has its items and one answer (`runInstrs_opcode`, `runInstrs_argSteps`). -/
theorem encodeStepsComputeEncodeCommand : Obligations.EncodeStepsComputeEncodeCommand := by
  intro op args s hlen hs
  obtain ⟨tx, htx, hrun⟩ := runInstrs_encodeMacro op args hlen hs
  exact ⟨length_encodeCommand op args, _, hrun, rfl, rfl, htx.state, htx.rem, rfl, rfl⟩

end Sys2Proof.Machine

/-! # DECODE on the block (42_rx_decoder.md R163, 30_encoding.md R85) -/

namespace Sys2Proof.Machine

open Sys2Proof.Claims

/-! ## Feeding bytes -/

/-- RX.BYTE of each byte in turn leads from the one RX register content to the other. -/
def RxFed (cfg : Config) : List Byte → RxRegs → RxRegs → Prop
  | [], rx, rx' => rx' = rx
  | b :: bs, rx, rx' => ∃ r, rxTake cfg b rx = .ok r ∧ RxFed cfg bs r rx'

section
variable {cfg : Config} {b : Byte} {bs : List Byte} {rx rx' : RxRegs}

theorem RxInv.widx_le (h : RxInv cfg rx) : rx.widx ≤ rx.expect := by
  obtain ⟨⟨hle, -⟩, -⟩ := h
  exact hle

theorem exists_rxTake_of_rxInv (h : RxInv cfg rx) (b : Byte) : ∃ rx', rxTake cfg b rx = .ok rx' := by
  obtain ⟨⟨hle, hmax⟩, -⟩ := h
  refine rxTake_ok b ?_
  cases hb : rxBeyond rx with
  | true => exact .inr rfl
  | false =>
    obtain ⟨hlt, -⟩ := widx_succ_of_not_beyond hle hb
    exact .inl (by omega)

theorem exists_rxFed_of_rxInv (h : RxInv cfg rx) (ha : rx.state = .active) (bs : List Byte) :
    ∃ rx', RxFed cfg bs rx rx' := by
  induction bs generalizing rx with
  | nil => exact ⟨rx, rfl⟩
  | cons b bs ih =>
    obtain ⟨r, hr⟩ := exists_rxTake_of_rxInv h b
    obtain ⟨hstate, -⟩ := rxTake_keeps hr
    obtain ⟨rx', hfed⟩ := ih (h.rxTake ha hr) (hstate.trans ha)
    exact ⟨rx', r, hr, hfed⟩

/-- What every byte keeps, feeding keeps. -/
theorem RxFed.keeps {P : RxRegs → Prop} (hstep : ∀ b r r', rxTake cfg b r = .ok r' → P r → P r')
    (h : RxFed cfg bs rx rx') (hP : P rx) : P rx' := by
  induction bs generalizing rx with
  | nil => exact h ▸ hP
  | cons b bs ih =>
    obtain ⟨r, hr, hfed⟩ := h
    exact ih hfed (hstep b rx r hr hP)

theorem RxFed.inv (h : RxFed cfg bs rx rx') (hinv : RxInv cfg rx) (ha : rx.state = .active) :
    RxInv cfg rx' ∧ rx'.state = .active ∧ rx'.expect = rx.expect := by
  refine h.keeps (P := fun r => RxInv cfg r ∧ r.state = .active ∧ r.expect = rx.expect) ?_ ⟨hinv, ha, rfl⟩
  intro b r r' ht ⟨hi, hs, he⟩
  obtain ⟨hstate, hexpect, -⟩ := rxTake_keeps ht
  exact ⟨hi.rxTake hs ht, hstate.trans hs, hexpect.trans he⟩

theorem RxFed.cerr (h : RxFed cfg bs rx rx') (hc : rx.cerr = true) : rx'.cerr = true ∧ rx'.cidx = rx.cidx := by
  refine h.keeps (P := fun r => r.cerr = true ∧ r.cidx = rx.cidx) ?_ ⟨hc, rfl⟩
  intro b r r' ht ⟨hr, hx⟩
  obtain ⟨-, -, -, -, hcerr⟩ := rxTake_keeps ht
  exact (hcerr hr).imp_right (·.trans hx)

theorem runInstrs_map_rxByte {s : State} (ha : s.rx.state = .active) (h : RxFed s.config bs s.rx rx') :
    runInstrs (bs.map .rxByte) s = .next (s.withRx rx') := by
  induction bs generalizing s with
  | nil =>
    obtain rfl : rx' = s.rx := h
    rfl
  | cons b bs ih =>
    obtain ⟨r, hr, hfed⟩ := h
    obtain ⟨hstate, -⟩ := rxTake_keeps hr
    rw [List.map_cons, runInstrs_cons (exec_rxByte_of_rxTake ha hr)]
    exact ih (s := s.withRx r) (hstate.trans ha) hfed

/-! ## The count of bytes, and the length verdict (R157, R158) -/

/-- How many bytes of a group are held (R31). -/
def RxPhase.held : RxPhase → Nat
  | .p0 => 0
  | .p1 => 1
  | .p2 => 2

/-- The bytes of the frame that have been counted (R30, R31). -/
def rxCount (rx : RxRegs) : Nat := 3 * rx.widx.toNat + rx.phase.held

/-- After `k` bytes: all are counted, or the frame is full and more came (R33). -/
structure RxCounted (k : Nat) (rx : RxRegs) : Prop where
  within : rx.overflow = false → rxCount rx = k
  beyond : rx.overflow = true → 3 * rx.expect.toNat < k

theorem RxCounted.rxTake {k : Nat} (h : RxCounted k rx) (hinv : RxInv cfg rx) (ht : rxTake cfg b rx = .ok rx') :
    RxCounted (k + 1) rx' := by
  obtain ⟨⟨hle, -⟩, hphase, hover, -⟩ := hinv
  rcases rxTake_cases ht with ⟨hb, rfl⟩ | ⟨hb, hp, rfl⟩ | ⟨hb, hp, rfl⟩ | ⟨hb, hp, -, -, rfl⟩ | ⟨hb, hp, -, rfl⟩
  · refine ⟨nofun, fun _ => ?_⟩
    rw [noteOver_expect]
    cases ho : rx.overflow with
    | true => exact Nat.lt_succ_of_lt (h.beyond ho)
    | false =>
      have hfull : rx.widx = rx.expect := ((rxBeyond_iff rx).1 hb).resolve_left (by simp [ho])
      have hcount : 3 * rx.widx.toNat + 0 = k := by
        have hk := h.within ho
        rwa [rxCount, hphase hfull] at hk
      rw [← hfull]
      omega
  all_goals
    obtain ⟨ho, -⟩ := rxBeyond_eq_false_iff.1 hb
    have hk : 3 * rx.widx.toNat + rx.phase.held = k := h.within ho
    obtain ⟨-, hsucc⟩ := widx_succ_of_not_beyond hle hb
    rw [hp] at hk
    refine ⟨fun _ => ?_, fun h => by simp [ho] at h⟩
    simp only [rxCount, nextGroup_widx, nextGroup_phase, noteMismatch_widx, hsucc, RxPhase.held] at hk ⊢
    omega

theorem RxFed.counted {k : Nat} (h : RxFed cfg bs rx rx') (hinv : RxInv cfg rx) (ha : rx.state = .active)
    (hk : RxCounted k rx) : RxCounted (k + bs.length) rx' := by
  induction bs generalizing rx k with
  | nil => exact h ▸ hk
  | cons b bs ih =>
    obtain ⟨r, hr, hfed⟩ := h
    obtain ⟨hstate, -⟩ := rxTake_keeps hr
    have hrest := ih hfed (hinv.rxTake ha hr) (hstate.trans ha) (hk.rxTake hinv hr)
    rwa [Nat.add_assoc, Nat.add_comm 1] at hrest

/-- R158's length test is that of `decode_response` (R150). -/
theorem RxCounted.lengthOk_iff {k : Nat} (h : RxCounted k rx) (hinv : RxInv cfg rx) :
    lengthOk rx = true ↔ k = 3 * rx.expect.toNat := by
  obtain ⟨⟨hle, -⟩, hphase, -⟩ := hinv
  rw [Machine.lengthOk_iff]
  constructor
  · rintro ⟨ho, hw, hp⟩
    rw [← h.within ho, rxCount, hw, hp]
    rfl
  · intro hk
    cases ho : rx.overflow with
    | true => exact absurd (h.beyond ho) (by omega)
    | false =>
      have hcount : 3 * rx.widx.toNat + rx.phase.held = k := h.within ho
      have hle : rx.widx.toNat ≤ rx.expect.toNat := hle
      have hsmall : rx.phase.held < 3 := by cases rx.phase <;> decide
      have hw : rx.widx = rx.expect := BitVec.eq_of_toNat_eq (by omega)
      exact ⟨rfl, hw, hphase hw⟩

/-! ## The groups (R157) -/

/-- The three bytes of a group: the word is stored when it checks, else the group is noted. -/
theorem RxFed.group {h l c : Byte} (hb : rxBeyond rx = false) (hp : rx.phase = .p0)
    (hfed : RxFed cfg (h :: l :: c :: bs) rx rx') :
    ∃ r, RxFed cfg [h, l, c] rx r ∧ RxFed cfg bs r rx' ∧
      ((crc8Word (mkWord h l) = c ∧
          r = nextGroup { rx with
            hi := h, lo := l, phase := .p2, buf := Memory.put rx.widx.toNat (mkWord h l) rx.buf }) ∨
        (crc8Word (mkWord h l) ≠ c ∧ r = nextGroup (noteMismatch { rx with hi := h, lo := l, phase := .p2 }))) := by
  obtain ⟨r₁, h₁, r₂, h₂, r₃, h₃, hrest⟩ := hfed
  refine ⟨r₃, ⟨r₁, h₁, r₂, h₂, r₃, h₃, rfl⟩, hrest, ?_⟩
  obtain rfl : r₁ = { rx with hi := h, phase := .p1 } := Except.ok.inj (h₁.symm.trans (rxTake_of_p0 hb hp))
  obtain rfl : r₂ = { rx with hi := h, lo := l, phase := .p2 } :=
    Except.ok.inj (h₂.symm.trans (rxTake_of_p1 (rx := { rx with hi := h, phase := .p1 }) hb rfl))
  rcases rxTake_cases h₃ with ⟨hb', -⟩ | ⟨-, hp', -⟩ | ⟨-, hp', -⟩ | ⟨-, -, hc, -, rfl⟩ | ⟨-, -, hc, rfl⟩
  · exact absurd (hb.symm.trans hb') Bool.false_ne_true
  · cases hp'
  · cases hp'
  · exact .inl ⟨(crc8Check_iff _ _).1 hc, rfl⟩
  · exact .inr ⟨mt (crc8Check_iff _ _).2 (Bool.eq_false_iff.1 hc), rfl⟩

/-- Feeding leaves the entries below the current group alone. -/
theorem RxFed.find_below (h : RxFed cfg bs rx rx') (hinv : RxInv cfg rx) (ha : rx.state = .active) {j : Nat}
    (hj : j < rx.widx.toNat) : Memory.find j rx'.buf = Memory.find j rx.buf := by
  refine (h.keeps (P := fun r => (RxInv cfg r ∧ r.state = .active ∧ j < r.widx.toNat) ∧
    Memory.find j r.buf = Memory.find j rx.buf) ?_ ⟨⟨hinv, ha, hj⟩, rfl⟩).2
  intro b r r' ht ⟨⟨hi, hs, hlt⟩, hf⟩
  obtain ⟨hstate, -⟩ := rxTake_keeps ht
  suffices hsuff : r.widx.toNat ≤ r'.widx.toNat ∧ Memory.find j r'.buf = Memory.find j r.buf from
    ⟨⟨hi.rxTake hs ht, hstate.trans hs, Nat.lt_of_lt_of_le hlt hsuff.1⟩, hsuff.2.trans hf⟩
  obtain ⟨⟨hle, -⟩, -⟩ := hi
  rcases rxTake_cases ht with ⟨-, rfl⟩ | ⟨-, -, rfl⟩ | ⟨-, -, rfl⟩ | ⟨hb, -, -, -, rfl⟩ | ⟨hb, -, -, rfl⟩
  · exact ⟨Nat.le_refl _, rfl⟩
  · exact ⟨Nat.le_refl _, rfl⟩
  · exact ⟨Nat.le_refl _, rfl⟩
  · obtain ⟨-, hsucc⟩ := widx_succ_of_not_beyond hle hb
    exact ⟨by rw [nextGroup_widx, hsucc]; omega, Memory.find_put_other (Nat.ne_of_lt hlt) ..⟩
  · obtain ⟨-, hsucc⟩ := widx_succ_of_not_beyond hle hb
    exact ⟨by rw [nextGroup_widx, noteMismatch_widx, hsucc]; omega, by simp⟩

/-- What the groups from `i` on left behind, for what `decode_response` says of them: the words in their entries, or the
index of the first group that failed (R34, R37(g)). -/
def Decoded (i : Nat) (rx : RxRegs) : Except FrameError (List Word) → Prop
  | .ok ws => rx.cerr = false ∧ i + ws.length = rx.expect.toNat ∧
      ∀ j w, ws[j]? = some w → Memory.find (i + j) rx.buf = some w
  | .error (.checksum k) => rx.cerr = true ∧ rx.cidx = BitVec.ofNat 8 k
  | .error .length => False

theorem Decoded.cons {i : Nat} {w : Word} {d : Except FrameError (List Word)} (h : Decoded (i + 1) rx d)
    (hw : Memory.find i rx.buf = some w) : Decoded i rx (d.map (w :: ·)) := by
  cases d with
  | ok ws =>
    obtain ⟨hc, hlen, hfind⟩ := h
    refine ⟨hc, by rw [List.length_cons]; omega, fun j v hv => ?_⟩
    cases j with
    | zero => exact hw.trans hv
    | succ j => rw [Nat.add_comm j, ← Nat.add_assoc]; exact hfind j v hv
  | error e =>
    cases e with
    | checksum k => exact h
    | length => exact h

theorem RxFed.decoded {m : Nat} (hfed : RxFed cfg bs rx rx') (hinv : RxInv cfg rx) (ha : rx.state = .active)
    (hlen : bs.length = 3 * m) (hm : rx.widx.toNat + m = rx.expect.toNat) (hp : rx.phase = .p0)
    (ho : rx.overflow = false) (hc : rx.cerr = false) : Decoded rx.widx.toNat rx' (decodeGroups rx.widx.toNat bs) := by
  induction m generalizing bs rx with
  | zero =>
    obtain rfl : bs = [] := List.length_eq_zero_iff.1 hlen
    obtain rfl : rx' = rx := hfed
    exact ⟨hc, hm, fun j w hw => by simp at hw⟩
  | succ m ih =>
    match bs, hlen with
    | h :: l :: c :: rest, hlen =>
      have hne : rx.widx ≠ rx.expect := fun he => by rw [he] at hm; omega
      obtain ⟨r, hgroup, hrest, hcases⟩ := hfed.group (rxBeyond_eq_false ho hne) hp
      obtain ⟨hrinv, hra, hre⟩ := hgroup.inv hinv ha
      obtain ⟨-, hsucc⟩ := widx_succ_of_not_beyond hinv.widx_le (rxBeyond_eq_false ho hne)
      rcases hcases with ⟨hcrc, rfl⟩ | ⟨hcrc, rfl⟩
      · have hlen' : rest.length = 3 * m := by simp only [List.length_cons] at hlen; omega
        have hm' : (rx.widx + 1).toNat + m = rx.expect.toNat := by omega
        have hdec := ih hrest hrinv hra hlen' hm' rfl ho hc
        rw [nextGroup_widx, hsucc] at hdec
        have hstored := hrest.find_below hrinv hra (j := rx.widx.toNat) (by rw [nextGroup_widx, hsucc]; omega)
        rw [decodeGroups_cons_of_crc_eq hcrc]
        exact hdec.cons (hstored.trans (Memory.find_put_same ..))
      · obtain ⟨hcerr, hcidx⟩ := hrest.cerr (noteMismatch_cerr _)
        rw [decodeGroups_cons_of_crc_ne hcrc]
        refine ⟨hcerr, ?_⟩
        rw [hcidx, nextGroup_cidx, noteMismatch_cidx, if_neg (by simp [hc]), BitVec.ofNat_toNat, BitVec.setWidth_eq]

/-! ## The registers after a frame, and what RX.RESULT and RX.RDWORD answer (R159, R160) -/

/-- The verdict of what `decode_response` says (R35). -/
def frameRes : Except FrameError (List Word) → RxRes
  | .ok _ => .ok
  | .error (.checksum _) => .checksum
  | .error .length => .length

/-- The RX registers after a frame of `n` expected words of which `decode_response` says `d`. -/
structure FrameDone (cfg : Config) (n : Byte) (d : Except FrameError (List Word)) (rx : RxRegs) : Prop where
  state  : rx.state = .done
  expect : rx.expect = n
  bound  : n.toNat ≤ cfg.maxResp
  res    : rx.res = frameRes d
  cidx   : ∀ k, d = .error (.checksum k) → rx.cidx = BitVec.ofNat 8 k
  words  : ∀ ws, d = .ok ws → ws.length = n.toNat ∧ ∀ j w, ws[j]? = some w → Memory.find j rx.buf = some w

theorem frameDone_of_rxFed {n : Byte} {rx₀ : RxRegs} (hn : n.toNat ≤ cfg.maxResp)
    (hfed : RxFed cfg bs (rxStarted n rx₀) rx) :
    FrameDone cfg n (decodeResponse bs n.toNat) { rx with state := .done, res := verdict rx } := by
  obtain ⟨hinv, hactive, hexpect⟩ := hfed.inv (rxInv_rxStarted hn) rfl
  have hcount : RxCounted bs.length rx := by
    have h0 : RxCounted 0 (rxStarted n rx₀) := ⟨fun _ => rfl, nofun⟩
    simpa using hfed.counted (rxInv_rxStarted hn) rfl h0
  have hok := hcount.lengthOk_iff hinv
  have hexpect : rx.expect = n := hexpect
  rw [hexpect] at hok
  by_cases hlen : bs.length = 3 * n.toNat
  · have hdec : Decoded 0 rx (decodeGroups 0 bs) :=
      hfed.decoded (rxInv_rxStarted hn) rfl hlen (Nat.zero_add _) rfl rfl rfl
    rw [decodeResponse_of_length hlen]
    match decodeGroups 0 bs, hdec with
    | .ok ws, ⟨hc, hws, hfind⟩ =>
      have hv : verdict rx = .ok := by simp [verdict, hok.2 hlen, hc]
      have hws : ws.length = n.toNat := by rw [← hexpect, ← hws, Nat.zero_add]
      refine ⟨rfl, hexpect, hn, hv, nofun, fun ws' he => ?_⟩
      obtain rfl : ws = ws' := Except.ok.inj he
      exact ⟨hws, fun j w hw => Nat.zero_add j ▸ hfind j w hw⟩
    | .error (.checksum k), ⟨hc, hcidx⟩ =>
      have hv : verdict rx = .checksum := by simp [verdict, hok.2 hlen, hc]
      refine ⟨rfl, hexpect, hn, hv, fun k' he => ?_, nofun⟩
      obtain rfl : k = k' := by simpa using he
      exact hcidx
  · rw [decodeResponse_of_length_ne hlen]
    have hv : verdict rx = .length := by simp [verdict, mt hok.1 hlen]
    exact ⟨rfl, hexpect, hn, hv, nofun, nofun⟩

end

section
variable {s t : State} {n : Byte} {d : Except FrameError (List Word)}

theorem exec_rxResult_of_frameDone (h : FrameDone s.config n d s.rx) :
    exec .rxResult s = .next (s.giveResponse (resultResponse n d)) := by
  cases d with
  | ok ws => rw [exec_rxResult_of_ok h.state h.res, h.expect]; rfl
  | error e =>
    cases e with
    | checksum k => rw [exec_rxResult_of_checksum h.state h.res, h.cidx k rfl]; rfl
    | length => rw [exec_rxResult_of_length h.state h.res]; rfl

theorem exec_rxRdword_of_frameDone (h : FrameDone s.config n d s.rx) (k : Byte) :
    exec (.rxRdword k) s = .next (s.giveResponse (rdwordResponse k d)) := by
  cases d with
  | ok ws =>
    obtain ⟨hlen, hfind⟩ := h.words ws rfl
    have hbound := h.bound
    cases hw : ws[k.toNat]? with
    | some w =>
      have hlt : k.toNat < ws.length := (List.getElem?_eq_some_iff.1 hw).1
      have hk : k < s.rx.expect := by rw [h.expect, BitVec.lt_def]; omega
      rw [exec_rxRdword_of_readEntry h.state h.res hk (readEntry_of_find (by omega) (hfind _ w hw)), rdwordResponse, hw]
    | none =>
      have hge : ws.length ≤ k.toNat := List.getElem?_eq_none_iff.1 hw
      have hk : s.rx.expect ≤ k := by rw [h.expect, BitVec.le_def]; omega
      rw [exec_rxRdword_of_le h.state h.res hk, rdwordResponse, hw]
      rfl
  | error e =>
    have hres : s.rx.res ≠ .ok := by
      rw [h.res]
      cases e <;> nofun
    exact exec_rxRdword_of_refused (.inr hres)

/-! ## The steps of DECODE -/

/-- R163: the effect of RX.START, the bytes and the end mark from `R_IDLE`. -/
theorem runInstrs_feedSteps (bs : List Byte) (hs : s.rx.state = .idle) (hn : n.toNat ≤ s.config.maxResp) :
    ∃ rx, FrameDone s.config n (decodeResponse bs n.toNat) rx ∧
      runInstrs (feedSteps n bs) s = .next (s.after ⟨none, some rx, [0], []⟩) := by
  obtain ⟨rx, hfed⟩ := exists_rxFed_of_rxInv (rxInv_rxStarted (rx := s.rx) hn) rfl bs
  obtain ⟨-, hactive, -⟩ := hfed.inv (rxInv_rxStarted hn) rfl
  have hbytes : runInstrs (bs.map .rxByte) ((s.withRx (rxStarted n s.rx)).giveResponse 0) = .next _ :=
    runInstrs_map_rxByte rfl hfed
  refine ⟨_, frameDone_of_rxFed hn hfed, ?_⟩
  rw [feedSteps, runInstrs_cons (exec_rxStart_of_le hs hn), runInstrs_append hbytes,
    runInstrs_cons (exec_rxEnd_of_active 0 hactive), runInstrs_nil]
  simp [State.after, State.giveResponse, State.withRx]

/-- Commands that only answer, as long as the RX registers are those of the state they begin in. -/
theorem runInstrs_map_of_answers {ι : Type} (f : ι → Instr) (r : ι → Word32) (l : List ι)
    (h : ∀ u : State, u.config = s.config → u.rx = s.rx → ∀ k, exec (f k) u = .next (u.giveResponse (r k))) :
    runInstrs (l.map f) s = .next (s.after ⟨none, none, l.map r, []⟩) := by
  induction l generalizing s with
  | nil => rw [List.map_nil, List.map_nil, State.after_nothing, runInstrs_nil]
  | cons k l ih =>
    rw [List.map_cons, runInstrs_cons (h s rfl rfl k), ih (s := s.giveResponse (r k)) h]
    simp [State.after, State.giveResponse]

theorem toNat_ofNat_byte {k : Nat} (h : k < 256) : (BitVec.ofNat 8 k).toNat = k := by
  rw [BitVec.toNat_ofNat, Nat.mod_eq_of_lt h]

theorem rdwordResponse_of_getElem? {k : Nat} {w : Word} {ws : List Word} (hk : k < 256) (hw : ws[k]? = some w) :
    rdwordResponse (BitVec.ofNat 8 k) (.ok ws) = (0 : Word) ++ w := by
  rw [rdwordResponse, toNat_ofNat_byte hk, hw]

theorem map_rdwordResponse_range {ws : List Word} (h : ws.length < 256) :
    (List.range ws.length).map (fun k => rdwordResponse (BitVec.ofNat 8 k) (.ok ws)) =
      ws.map fun w => ((0 : Word) ++ w : Word32) := by
  refine List.ext_getElem (by simp) fun k hk _ => ?_
  have hk : k < ws.length := by simpa using hk
  rw [List.getElem_map, List.getElem_map, List.getElem_range,
    rdwordResponse_of_getElem? (Nat.lt_trans hk h) (List.getElem?_eq_getElem hk)]

/-- The reads of DECODE: every word in order, or none (R151). -/
theorem runInstrs_reads (h : FrameDone s.config n d s.rx) :
    runInstrs (if d.isOk = true then (List.range n.toNat).map (fun i => .rxRdword (BitVec.ofNat 8 i)) else []) s =
      .next (s.after ⟨none, none, (deliveredWords d).map (fun w => ((0 : Word) ++ w : Word32)), []⟩) := by
  cases d with
  | ok ws =>
    obtain ⟨hlen, -⟩ := h.words ws rfl
    have hreads (u : State) (hc : u.config = s.config) (hrx : u.rx = s.rx) (k : Nat) :
        exec (.rxRdword (BitVec.ofNat 8 k)) u = .next (u.giveResponse (rdwordResponse (BitVec.ofNat 8 k) (.ok ws))) :=
      exec_rxRdword_of_frameDone (by rw [hc, hrx]; exact h) _
    have hok : (Except.ok ws : Except FrameError (List Word)).isOk = true := rfl
    rw [if_pos hok, runInstrs_map_of_answers _ _ _ hreads, ← hlen, map_rdwordResponse_range (hlen ▸ n.isLt)]
    rfl
  | error e =>
    rw [if_neg (by simp [Except.isOk, Except.toBool])]
    simp [deliveredWords]

theorem runInstrs_decodeMacro (bs : List Byte) (hs : s.rx.state = .idle) (hn : n.toNat ≤ s.config.maxResp) :
    ∃ rx, rx.state = .idle ∧
      runInstrs (decodeMacro n bs (decodeResponse bs n.toNat).isOk) s =
        .next (s.after ⟨none, some rx, [0, resultResponse n (decodeResponse bs n.toNat)] ++
          (deliveredWords (decodeResponse bs n.toNat)).map (fun w => ((0 : Word) ++ w : Word32)) ++ [0], []⟩) := by
  obtain ⟨rx, hdone, hfeed⟩ := runInstrs_feedSteps bs hs hn
  generalize decodeResponse bs n.toNat = d at hdone ⊢
  have hresult : runInstrs (feedSteps n bs ++ [.rxResult]) s = .next _ :=
    (runInstrs_append hfeed).trans (runInstrs_cons (exec_rxResult_of_frameDone hdone))
  refine ⟨{ clearFrame rx with state := .idle }, rfl, ?_⟩
  rw [decodeMacro, List.append_assoc, runInstrs_append hresult, runInstrs_append (runInstrs_reads hdone),
    runInstrs_cons (exec_rxClear _), runInstrs_nil]
  simp [State.after, State.giveResponse, State.withRx]

end

/-- Settles O40, by induction on the bytes for the length verdict (`RxCounted`) and on the groups for the words and the
first failing index (`Decoded`). -/
theorem decodeStepsComputeDecodeResponse : Obligations.DecodeStepsComputeDecodeResponse := by
  intro n bs s hs hn
  obtain ⟨rx, hdone, hrun⟩ := runInstrs_feedSteps bs hs hn
  exact ⟨_, hrun, hdone.state, rfl, rfl, exec_rxResult_of_frameDone hdone, exec_rxRdword_of_frameDone hdone⟩

/-- Settles O41: the frame is fed and judged as in O40; every read that DECODE makes is answered with its word. -/
theorem decodeMacroDeliversAllOrNothing : Obligations.DecodeMacroDeliversAllOrNothing := by
  intro n bs s hs hn
  obtain ⟨rx, hidle, hrun⟩ := runInstrs_decodeMacro bs hs hn
  refine ⟨_, hrun, ?_, hidle, rfl, List.append_nil _⟩
  simp

/-! # Loopback (95_test_vectors.md S1) -/

section
variable (b : Byte) (bs : List Byte) (n : Nat)

theorem data_tItem (last : Bool) : (tItem last b).extractLsb' 0 8 = b := data_rItemOf last b

theorem data_frameItems : (frameItems bs).map (fun it => it.extractLsb' 0 8) = bs := by
  induction bs with
  | nil => rfl
  | cons b bs ih => rw [frameItems_cons, List.map_cons, data_tItem, ih]

theorem drop_two_frameItems_encodeCommand (op : Word) (ws : List Word) :
    (frameItems (encodeCommand op ws)).drop 2 = frameItems (encodeWords ws) := by
  rw [frameItems_encodeCommand]
  rfl

variable {n}

theorem zero_append_ofNat (h : n < 256) : (0 : BitVec 24) ++ BitVec.ofNat 8 n = BitVec.ofNat 32 n := by
  have hbyte : (0 : BitVec 24) ++ BitVec.ofNat 8 n = (BitVec.ofNat 8 n).setWidth 32 :=
    (BitVec.setWidth_eq_append (by decide)).symm
  apply BitVec.eq_of_toNat_eq
  rw [hbyte, BitVec.toNat_setWidth, BitVec.toNat_ofNat, BitVec.toNat_ofNat, Nat.mod_eq_of_lt h]

end

/-- Settles O44: the bytes on the T port are those of the command frame (O29), which less the first two decode to the
arguments (O42), so that the fed frame is done with them (O40). -/
theorem loopbackGivesBackTheArguments : Obligations.LoopbackGivesBackTheArguments := by
  intro op ws s ⟨htx, hrx⟩ hwf hlen
  have hbyte : ws.length < 256 := by
    obtain ⟨-, hmax⟩ := hwf
    omega
  have hcount : (BitVec.ofNat 8 ws.length).toNat = ws.length := toNat_ofNat_byte hbyte
  obtain ⟨tx, -, hsend⟩ := runInstrs_encodeMacro op ws (Nat.le_of_lt_succ hbyte) htx
  refine ⟨_, hsend, ?_⟩
  rw [State.after_tItems, List.drop_length_add_append, drop_two_frameItems_encodeCommand, data_frameItems]
  obtain ⟨rx, hdone, hfeed⟩ := runInstrs_feedSteps (n := BitVec.ofNat 8 ws.length)
    (s := s.after ⟨some tx, none, List.replicate (1 + ws.length) 0, frameItems (encodeCommand op ws)⟩)
    (encodeWords ws) hrx (hcount.symm ▸ hlen)
  rw [hcount, decodeResponse_encodeWords] at hdone
  refine ⟨_, hfeed, ?_, fun k w hw => ?_⟩
  · rw [exec_rxResult_of_frameDone hdone, resultResponse, zero_append_ofNat hbyte]
  · obtain ⟨hk, -⟩ := List.getElem?_eq_some_iff.1 hw
    rw [exec_rxRdword_of_frameDone hdone, rdwordResponse_of_getElem? (Nat.lt_trans hk hbyte) hw]

end Sys2Proof.Machine
